-- ==== Sys2Proof/Config.lean ====
section
/-! DEFINITION. The parameters the spec leaves to an implementation (rule R9) and the one opaque
value of the block, the handle the user callback receives. -/

namespace Sys2Proof.Config

/-- `W`, the width in bits of every position and position operand (rule R9: open, default 16).
DESIGN CHOICE (log 1): the machine runs at the default. Only which operands can be presented
depends on it (rule R11), and decoding, encoding and well-formedness take the width as an
argument. -/
def positionWidth : Nat := 16

/-- Width in bits of an opaque operand (callback, user context) in an input.
DESIGN CHOICE (log 9): the spec gives opaque values no width. -/
def tokenWidth : Nat := 32

/-- `controllerHandle` (rule R174): opaque, so it has no body. It identifies this instance and
nothing in the decoder depends on it (log 9). -/
opaque controllerHandle : BitVec tokenWidth

end Sys2Proof.Config
end

