-- ==== Sys2Proof/Word.lean ====
section
/-! DEFINITION. The value types of the decoder: bit fields where the spec gives bits
(`30_encoding.md`), named sets where it gives names, mathematical integers for positions
(rule R11). -/

namespace Sys2Proof

/-- SAMPLE, the phase sample `{bPin, aPin}` (rule R91): B in bit 1, A in bit 0. -/
abbrev Sample := BitVec 2

/-- EDGE, the edge event code `{phase, level}` (rule R92). -/
abbrev EventCode := BitVec 2

/-- STATE, the internal decode state, one of the 8 slots of a transition table (rule R94). -/
abbrev DecodeState := BitVec 3

/-- ENTRY, a packed table entry `{delta, next}` (rule R95). -/
abbrev Entry := BitVec 5

/-- TADDR, a table address `{mode, ds, e}` (rule R100). -/
abbrev TableAddr := BitVec 6

/-- An opaque value: a callback or a user context (rules R29, R174). The decoder never
inspects it. -/
abbrev Token := BitVec Config.tokenWidth

/-- The four edge events (rule R92). -/
inductive EdgeEvent
  | aFall
  | aRise
  | bFall
  | bRise
deriving DecidableEq, Repr

/-- The delta indicator of a table entry (rules R95, R96). -/
inductive Delta
  | none
  | increment
  | decrement
deriving DecidableEq, Repr

/-- The click flag (rules R18, R97). -/
inductive Click
  | noClick
  | upClick
  | downClick
deriving DecidableEq, Repr

/-- The table selector (rules R22, R98). -/
inductive Mode
  | full
  | half
deriving DecidableEq, Repr

/-- The lifecycle state (rules R21, R99). -/
inductive Life
  | unconfigured
  | configured
  | active
deriving DecidableEq, Repr

/-- RECORD, the two-field state record (rule R101). -/
structure Record where
  /-- The position, a signed integer (rule R11). -/
  pos : Int
  /-- The click flag. -/
  click : Click
deriving DecidableEq, Repr

/-- What `cb` holds when it holds something: the pair (callback, userContext) (rule R29). -/
structure Registration where
  /-- The registered callback. -/
  callback : Token
  /-- The opaque value handed back to it. -/
  userContext : Token
deriving DecidableEq, Repr

/-- The two interfaces an operation can arrive through (rule R103): EDGE from the adapter, HOST
from the application. -/
inductive Port
  | edge
  | host
deriving DecidableEq, Repr

end Sys2Proof
end

