-- ==== Sys2Proof/Syntax.lean ====
section
/-! DEFINITION. The eleven operations (rules R3, R103), one constructor for each row of the
operation table. Operands are those of rule R102; `beginOp` carries the two inputs that the
adapter supplies (rule R215). -/

namespace Sys2Proof

/-- One operation of the decoder with its operands. -/
inductive Instr
  /-- `onEdge(A_FALL)`, event code 00 (rule R165). -/
  | onEdgeAFall
  /-- `onEdge(A_RISE)`, event code 01 (rule R166). -/
  | onEdgeARise
  /-- `onEdge(B_FALL)`, event code 10 (rule R167). -/
  | onEdgeBFall
  /-- `onEdge(B_RISE)`, event code 11 (rule R168). -/
  | onEdgeBRise
  /-- `configure(minValue, maxValue, initialValue, mode)`, selector 000 (rule R211). -/
  | configure (minValue maxValue initialValue : Int) (mode : Mode)
  /-- `begin()`, selector 001 (rule R215), with its environment inputs. -/
  | beginOp (adapterOk : Bool) (sample : Sample)
  /-- `end()`, selector 010 (rule R225). -/
  | endOp
  /-- `readState()`, selector 011 (rule R185). -/
  | readState
  /-- `setValueAndReadBoth(newValue)`, selector 100 (rule R190). -/
  | setValueAndReadBoth (newValue : Int)
  /-- `reconfigureBounds(newMin, newMax, newCurrent)`, selector 101 (rule R195). -/
  | reconfigureBounds (newMin newMax newCurrent : Int)
  /-- `attachCallback(callback, userContext)`, selector 110 (rule R230). -/
  | attachCallback (callback : Option Token) (userContext : Token)
deriving DecidableEq, Repr

end Sys2Proof
end

