-- ==== Sys2Proof/WellFormed.lean ====
section
/-! DEFINITION. Which operand values can be presented: every position operand lies in
`[-2^(W-1), 2^(W-1) - 1]` (rule R11). All other operands are well-formed by their type. -/

namespace Sys2Proof

/-- `v` is a `W`-bit two's complement value (rule R11). -/
abbrev FitsWidth (W : Nat) (v : Int) : Prop :=
  -(2 : Int) ^ (W - 1) ≤ v ∧ v < (2 : Int) ^ (W - 1)

/-- Every position operand of the operation fits the width `W` (rule R11). -/
def Instr.wellFormed (W : Nat) : Instr → Bool
  | .onEdgeAFall => true
  | .onEdgeARise => true
  | .onEdgeBFall => true
  | .onEdgeBRise => true
  | .configure lo hi v _ => decide (FitsWidth W lo) && decide (FitsWidth W hi) && decide (FitsWidth W v)
  | .beginOp _ _ => true
  | .endOp => true
  | .readState => true
  | .setValueAndReadBoth v => decide (FitsWidth W v)
  | .reconfigureBounds lo hi v => decide (FitsWidth W lo) && decide (FitsWidth W hi) && decide (FitsWidth W v)
  | .attachCallback _ _ => true

end Sys2Proof
end

