-- ==== Sys2Proof/Decode.lean ====
section
/-! DEFINITION. The encodings (`30_encoding.md`): bit-field helpers, the decoder (total on any bit
string, rejecting by name), the encoder, and the numbering of the operation table.

An operation arrives as a bit string, bit 0 first (rule R10). Format EDGE is the 2-bit event code
(rule R92). Format HOST is the 3-bit selector followed by the operands of its row in the order of
rule R102, each in its own width. DESIGN CHOICE (log 3): the spec fixes the selector, the operands,
their order and their widths, and gives opaque values no bits; here a callback is a presence bit
and a token. -/

namespace Sys2Proof

/-- Why a bit string is no operation. -/
inductive DecodeError
  /-- HOST selector 111 (rule R105). -/
  | reservedSelector
  /-- Fewer bits than the format needs (rule R104). -/
  | truncated
  /-- More bits than the format has (rule R104). -/
  | trailing
  /-- The presence bit says `none` and the token is not zero (log 3). -/
  | noneWithToken
deriving DecidableEq, Repr

/-! ### Edge operations and interfaces -/

/-- The operation that an edge event starts (rules R92, R103). -/
def EdgeEvent.instr : EdgeEvent → Instr
  | .aFall => .onEdgeAFall
  | .aRise => .onEdgeARise
  | .bFall => .onEdgeBFall
  | .bRise => .onEdgeBRise

/-- The edge event of an edge operation; the HOST operations have none. -/
def Instr.event? : Instr → Option EdgeEvent
  | .onEdgeAFall => some .aFall
  | .onEdgeARise => some .aRise
  | .onEdgeBFall => some .bFall
  | .onEdgeBRise => some .bRise
  | .configure _ _ _ _ => none
  | .beginOp _ _ => none
  | .endOp => none
  | .readState => none
  | .setValueAndReadBoth _ => none
  | .reconfigureBounds _ _ _ => none
  | .attachCallback _ _ => none

/-- The interface an operation arrives through (rule R103). -/
def Instr.port (i : Instr) : Port :=
  match i.event? with
  | some _ => .edge
  | none => .host

/-! ### Bit strings -/

/-- The low `n` bits of `v`, bit 0 first. -/
def bitsOf : Nat → Nat → List Bool
  | 0, _ => []
  | n + 1, v => (v % 2 == 1) :: bitsOf n (v / 2)

/-- The number whose bits, bit 0 first, are given. -/
def natOf : List Bool → Nat
  | [] => 0
  | b :: bs => b.toNat + 2 * natOf bs

/-- `sext_W` (rule R11): a `W`-bit number read as two's complement. -/
def signExtend (W n : Nat) : Int :=
  if n < 2 ^ (W - 1) then (n : Int) else (n : Int) - (2 : Int) ^ W

/-- The `W` low bits of a signed value as a number. -/
def truncateTo (W : Nat) (v : Int) : Nat :=
  (v % (2 : Int) ^ W).toNat

/-- Takes the next `n` bits as a number. -/
def takeBits (n : Nat) (bs : List Bool) : Except DecodeError (Nat × List Bool) :=
  if bs.length < n then .error .truncated else .ok (natOf (bs.take n), bs.drop n)

/-- Takes a `W`-bit signed operand. -/
def takePosition (W : Nat) (bs : List Bool) : Except DecodeError (Int × List Bool) :=
  (takeBits W bs).map fun r => (signExtend W r.1, r.2)

/-- Accepts an operation only when every bit has been used. -/
def finishDecode (i : Instr) (rest : List Bool) : Except DecodeError Instr :=
  if rest.isEmpty then .ok i else .error .trailing

/-! ### Codes of the named values -/

/-- The code of an edge event (rule R92): phase in bit 1, level in bit 0. -/
def EdgeEvent.code : EdgeEvent → EventCode
  | .aFall => 0b00#2
  | .aRise => 0b01#2
  | .bFall => 0b10#2
  | .bRise => 0b11#2

/-- The event of a 2-bit number; all four codes are legal (rule R92). -/
def EdgeEvent.ofBits (n : Nat) : EdgeEvent :=
  match n % 4 with
  | 0 => .aFall
  | 1 => .aRise
  | 2 => .bFall
  | _ => .bRise

/-- The code of a mode (rule R98). -/
def Mode.code : Mode → BitVec 1
  | .full => 0b0#1
  | .half => 0b1#1

/-- The mode of a 1-bit number (rule R98). -/
def Mode.ofBits (n : Nat) : Mode :=
  if n % 2 = 0 then .full else .half

/-- The code of a click flag (rule R97). -/
def Click.code : Click → BitVec 2
  | .noClick => 0b00#2
  | .upClick => 0b01#2
  | .downClick => 0b10#2

/-- The click flag of a code; 0b11 is reserved (rule R97). -/
def Click.ofCode (c : BitVec 2) : Option Click :=
  if c = 0b00#2 then some .noClick
  else if c = 0b01#2 then some .upClick
  else if c = 0b10#2 then some .downClick
  else none

/-- The code of a delta indicator (rule R96). -/
def Delta.code : Delta → BitVec 2
  | .none => 0b00#2
  | .increment => 0b01#2
  | .decrement => 0b10#2

/-- The delta indicator of a code; 0b11 is reserved (rule R96). -/
def Delta.ofCode (c : BitVec 2) : Option Delta :=
  if c = 0b00#2 then some .none
  else if c = 0b01#2 then some .increment
  else if c = 0b10#2 then some .decrement
  else Option.none

/-- The code of a lifecycle state (rule R99). -/
def Life.code : Life → BitVec 2
  | .unconfigured => 0b00#2
  | .configured => 0b01#2
  | .active => 0b10#2

/-- The lifecycle state of a code; 0b11 is reserved (rule R99). -/
def Life.ofCode (c : BitVec 2) : Option Life :=
  if c = 0b00#2 then some .unconfigured
  else if c = 0b01#2 then some .configured
  else if c = 0b10#2 then some .active
  else none

/-- The packed form of a record, `{click, pos}` with the position in the low `W` bits
(rule R101). -/
def Record.pack (W : Nat) (r : Record) : BitVec (2 + W) :=
  r.click.code ++ BitVec.ofInt W r.pos

/-- The record of a packed form, none where the click code is the reserved one (rule R101). -/
def Record.unpack (W : Nat) (v : BitVec (2 + W)) : Option Record :=
  (Click.ofCode (v.extractLsb' W 2)).map fun c => ⟨(v.extractLsb' 0 W).toInt, c⟩

/-! ### The decoder -/

/-- Decodes format EDGE (rules R92, R104): exactly two bits. -/
def decodeEdge (bs : List Bool) : Except DecodeError Instr := do
  let (e, rest) ← takeBits 2 bs
  finishDecode (EdgeEvent.ofBits e).instr rest

/-- Decodes the operands of `configure` (rule R102). -/
def decodeConfigure (W : Nat) (bs : List Bool) : Except DecodeError Instr := do
  let (lo, r1) ← takePosition W bs
  let (hi, r2) ← takePosition W r1
  let (v, r3) ← takePosition W r2
  let (m, r4) ← takeBits 1 r3
  finishDecode (.configure lo hi v (Mode.ofBits m)) r4

/-- Decodes the two environment inputs of `begin` (rule R102). -/
def decodeBegin (bs : List Bool) : Except DecodeError Instr := do
  let (ok, r1) ← takeBits 1 bs
  let (sample, r2) ← takeBits 2 r1
  finishDecode (.beginOp (ok == 1) (BitVec.ofNat 2 sample)) r2

/-- Decodes the operand of `setValueAndReadBoth` (rule R102). -/
def decodeSetValue (W : Nat) (bs : List Bool) : Except DecodeError Instr := do
  let (v, r1) ← takePosition W bs
  finishDecode (.setValueAndReadBoth v) r1

/-- Decodes the operands of `reconfigureBounds` (rule R102). -/
def decodeReconfigure (W : Nat) (bs : List Bool) : Except DecodeError Instr := do
  let (lo, r1) ← takePosition W bs
  let (hi, r2) ← takePosition W r1
  let (v, r3) ← takePosition W r2
  finishDecode (.reconfigureBounds lo hi v) r3

/-- Decodes the operands of `attachCallback` (rule R102): presence bit, callback, context. -/
def decodeAttach (bs : List Bool) : Except DecodeError Instr := do
  let (present, r1) ← takeBits 1 bs
  let (f, r2) ← takeBits Config.tokenWidth r1
  let (ctx, r3) ← takeBits Config.tokenWidth r2
  if present = 1 then
    finishDecode (.attachCallback (some (BitVec.ofNat _ f)) (BitVec.ofNat _ ctx)) r3
  else if f = 0 then
    finishDecode (.attachCallback none (BitVec.ofNat _ ctx)) r3
  else .error .noneWithToken

/-- Decodes format HOST: the selector fixes the operand list (rules R102, R104); selector 111 is
reserved and rejected by name (rule R105). -/
def decodeHost (W : Nat) (bs : List Bool) : Except DecodeError Instr := do
  let (op, rest) ← takeBits 3 bs
  match op with
  | 0 => decodeConfigure W rest
  | 1 => decodeBegin rest
  | 2 => finishDecode .endOp rest
  | 3 => finishDecode .readState rest
  | 4 => decodeSetValue W rest
  | 5 => decodeReconfigure W rest
  | 6 => decodeAttach rest
  | _ => .error .reservedSelector

/-- Decodes a bit string that arrived through a port: the port tells the two formats apart
(rule R103). -/
def decode (W : Nat) : Port → List Bool → Except DecodeError Instr
  | .edge, bs => decodeEdge bs
  | .host, bs => decodeHost W bs

/-! ### The encoder -/

/-- The bits of a callback operand: presence bit, then the token (log 3). -/
def encodeCallback : Option Token → List Bool
  | none => false :: bitsOf Config.tokenWidth 0
  | some f => true :: bitsOf Config.tokenWidth f.toNat

/-- The bits of a position operand: `W` bits of two's complement (rule R11). -/
def encodePosition (W : Nat) (v : Int) : List Bool :=
  bitsOf W (truncateTo W v)

/-- The bit string of an operation (rules R92, R102). -/
def Instr.bits (W : Nat) : Instr → List Bool
  | .onEdgeAFall => bitsOf 2 0
  | .onEdgeARise => bitsOf 2 1
  | .onEdgeBFall => bitsOf 2 2
  | .onEdgeBRise => bitsOf 2 3
  | .configure lo hi v m =>
      bitsOf 3 0 ++ encodePosition W lo ++ encodePosition W hi ++ encodePosition W v ++
        bitsOf 1 m.code.toNat
  | .beginOp ok sample => bitsOf 3 1 ++ bitsOf 1 ok.toNat ++ bitsOf 2 sample.toNat
  | .endOp => bitsOf 3 2
  | .readState => bitsOf 3 3
  | .setValueAndReadBoth v => bitsOf 3 4 ++ encodePosition W v
  | .reconfigureBounds lo hi v =>
      bitsOf 3 5 ++ encodePosition W lo ++ encodePosition W hi ++ encodePosition W v
  | .attachCallback f ctx => bitsOf 3 6 ++ encodeCallback f ++ bitsOf Config.tokenWidth ctx.toNat

/-- An operation as it arrives: its port and its bits. -/
def encode (W : Nat) (i : Instr) : Port × List Bool :=
  (i.port, i.bits W)

/-! ### The numbering of the operation table -/

/-- How many bits a HOST operation has, by its selector (rules R102, R104); the reserved selector
has only itself. -/
def hostLength (W : Nat) (op : Nat) : Nat :=
  match op with
  | 0 => 3 + 3 * W + 1
  | 1 => 3 + 1 + 2
  | 2 => 3
  | 3 => 3
  | 4 => 3 + W
  | 5 => 3 + 3 * W
  | 6 => 3 + 1 + Config.tokenWidth + Config.tokenWidth
  | _ => 3

/-- How many bits an operation has (rule R104). -/
def Instr.bitLength (W : Nat) : Instr → Nat
  | .onEdgeAFall => 2
  | .onEdgeARise => 2
  | .onEdgeBFall => 2
  | .onEdgeBRise => 2
  | .configure _ _ _ _ => hostLength W 0
  | .beginOp _ _ => hostLength W 1
  | .endOp => hostLength W 2
  | .readState => hostLength W 3
  | .setValueAndReadBoth _ => hostLength W 4
  | .reconfigureBounds _ _ _ => hostLength W 5
  | .attachCallback _ _ => hostLength W 6

/-- The input that a word of the operation table stands for: bit 0 of `w` is the first bit, and
every bit above `nbits` is 0. A word of at most two bits is format EDGE, a longer one format HOST.
DESIGN CHOICE (log 4): the EDGE codes 00 to 11 and the HOST selectors 000 to 011 are the same
numbers and only the interface tells them apart (rule R103), so a width rounded up to whole bytes
is read as HOST. Bits of the word beyond the operation's own length are kept where they are not
zero, so that the decoder rejects them. -/
def tableInput (W nbits w : Nat) : Port × List Bool :=
  if nbits ≤ 2 then (.edge, bitsOf nbits w)
  else
    let v := w % 2 ^ nbits
    let n := hostLength W (v % 8)
    if v < 2 ^ n then (.host, bitsOf n v) else (.host, bitsOf nbits v)

/-- The operation the decoder reads from a word of the operation table. -/
def decodeTableWord (nbits w : Nat) : Option Instr :=
  let input := tableInput Config.positionWidth nbits w
  (decode Config.positionWidth input.1 input.2).toOption

end Sys2Proof
end

