-- ==== Sys2Proof/Machine/State.lean ====
section
/-! DEFINITION. One decoder instance as plain data: the registers of rule R20, then the model's own
fields (what the adapter holds, what is still to come in, what has gone out), the reasons a step
can stop, and the state after reset. -/

namespace Sys2Proof.Machine

/-- What an application operation returned (rule R102, results column). DESIGN CHOICE (log 5): the
spec returns results to the caller; the model keeps those of the latest application operation. -/
inductive Result
  /-- No value: `end` and `attachCallback` return none, and nothing has returned after reset. -/
  | nothing
  /-- The boolean of `configure` or `begin`. -/
  | ok (success : Bool)
  /-- The record and the freshness of `readState`. -/
  | read (state : Record) (fresh : Bool)
  /-- The two records of `setValueAndReadBoth`. -/
  | both (old new : Record)
  /-- `reconfigureBounds` with `ok = true`. -/
  | rebound (old new : Record)
  /-- `reconfigureBounds` with `ok = false`: `old` and `new` carry no value (rules R195, R301). -/
  | reboundFailed
deriving DecidableEq, Repr

/-- One call of the user callback, `call cb(handle, record, userContext)` (rule R174). -/
structure CallbackCall where
  /-- The callback that was called. -/
  callback : Token
  /-- `controllerHandle`, which identifies the instance. -/
  handle : Token
  /-- The live record after the delta, by value. -/
  snapshot : Record
  /-- The opaque value registered with the callback. -/
  userContext : Token
deriving DecidableEq, Repr

/-- One input of the instance that is still to come (rules R7, R103, R108). -/
inductive Input
  /-- A bit string that arrives through one of the two interfaces. -/
  | operation (port : Port) (bits : List Bool)
  /-- The instance is destroyed (rule R228); this is no operation of the table. -/
  | destroy
deriving DecidableEq, Repr

/-- The state of one decoder instance. -/
structure State where
  /-- The lifecycle state (rule R21). -/
  life : Life
  /-- The table selector (rule R22). -/
  mode : Mode
  /-- The lower bound (rule R23). -/
  minValue : Int
  /-- The upper bound (rule R23). -/
  maxValue : Int
  /-- The internal decode state (rule R24). -/
  ds : DecodeState
  /-- The live copy of the state record (rule R25). -/
  live : Record
  /-- The local copy of the state record, `local` in the spec (rule R26). -/
  localRec : Record
  /-- The changed flag (rule R27). -/
  changed : Bool
  /-- The edge-delivery mask, true where delivery is unmasked (rule R28). -/
  ien : Bool
  /-- The registered user callback (rule R29). -/
  cb : Option Registration
  /-- The model's own: the instance has been destroyed (rule R228, log 10). -/
  destroyed : Bool
  /-- The model's own: the notifications the adapter holds, oldest first (rules R35, R249, log 7). -/
  held : List EdgeEvent
  /-- The model's own: the inputs still to come, in their total order (rules R79, R108, log 6). -/
  inbox : List Input
  /-- The model's own: what the latest application operation returned (log 5). -/
  result : Result
  /-- The model's own: the callback calls made so far, oldest first (rule R254, log 5). -/
  calls : List CallbackCall
deriving DecidableEq, Repr

/-- Why the machine stops with a fault. The decoder raises no exception, trap or fault (rules R14,
R233, R240), so there is no constructor and no step answers with one: safe. -/
inductive Fault
deriving DecidableEq, Repr

/-- Why a step has no meaning. Each is an execution the spec leaves without one. -/
inductive Refusal
  /-- An arm of `exec` whose meaning is not written yet. Raised by `exec`; safe. -/
  | notModelled (mnemonic : String)
  /-- `readState`, `setValueAndReadBoth` or `reconfigureBounds` while Unconfigured, where the
  registers they read are unspecified. Raised by those three (rule R210, U8); safe. -/
  | unconfigured
  /-- `begin` while Active. Raised by `begin` (rule R219, U9); safe. -/
  | beginWhileActive
  /-- `onEdge` while the instance is not Active, where none can occur. Raised by the four edge
  operations (rule R161, V36); safe. -/
  | edgeWhileInactive
  /-- An entry with the reserved delta code 11. Raised by the four edge operations; neither table
  has such an entry (rule R105, U4); safe. -/
  | reservedDelta
  /-- An operation on a destroyed instance. Raised by every operation (rule R228, U10); safe. -/
  | instanceDestroyed
  /-- An input that no operation has as its encoding, the reserved selector 111 among them. Raised
  by `step` (rule R105, U6); safe. -/
  | malformed (e : DecodeError)
  /-- The user callback invoked an operation of its own instance. Raised by `fineStep` (rules R75,
  R290, U11); safe. -/
  | callbackReentry
  /-- A second `onEdge` would start inside one in progress. Raised by `fineStep` (rules R162, R291,
  U12); safe. -/
  | handlerNesting
  /-- A second application context called while an application operation was in progress. Raised by
  `fineStep` (rule R293, U13); safe. -/
  | secondApplication
  /-- An event of the fine-grained system that is not enabled there. Raised by `fineStep`; safe. -/
  | notEnabled
deriving DecidableEq, Repr

/-- What a step of this machine answers. -/
abbrev Answer := Host.Outcome State Fault Refusal

/-- The machine right after reset, which is construction (rules R38, R280): `life`, `ien` and `cb`
as the spec says. DESIGN CHOICE (log 2): the spec leaves every other register unspecified; each
holds a named value here, which no operation reads before `configure` has written it. -/
def State.reset : State where
  life := .unconfigured
  mode := .full
  minValue := 0
  maxValue := 0
  ds := 0b000#3
  live := ⟨0, .noClick⟩
  localRec := ⟨0, .noClick⟩
  changed := false
  ien := true
  cb := none
  destroyed := false
  held := []
  inbox := []
  result := .nothing
  calls := []

end Sys2Proof.Machine
end

