-- ==== Sys2Proof/Machine/Flags.lean ====
section
/-! DEFINITION. The two status flags, click and `changed` (rule R31), and what they report. -/

namespace Sys2Proof.Machine

/-- The click that a delta causes (rules R97, R170): `none` causes no click. -/
def clickOf : Delta → Click
  | .none => .noClick
  | .increment => .upClick
  | .decrement => .downClick

/-- `Snapshot()` (rule R15): the live record when `changed` is set; otherwise the local position
with no click, whatever `live.click` holds (rule R31). It writes nothing. -/
def snapshot (s : State) : Record :=
  if s.changed then s.live else ⟨s.localRec.pos, .noClick⟩

/-- The click that a result reports to the application (rule R183): that of the record read, or of
the old record; the other results report none. -/
def reportedClick : Result → Click
  | .nothing => .noClick
  | .ok _ => .noClick
  | .read state _ => state.click
  | .both old _ => old.click
  | .rebound old _ => old.click
  | .reboundFailed => .noClick

end Sys2Proof.Machine
end

