-- ==== Sys2Proof/Machine/Operands.lean ====
section
/-! DEFINITION. How operands are assembled: the phase sample, the event codes that the adapter
computes from two samples (rule R93), the start state, the seed tables (rule R222) and the levels a
decode state stands for (rules R129, R139). -/

namespace Sys2Proof.Machine

/-- The level of phase A in a sample, bit 0 (rule R91). -/
def levelA (s : Sample) : Bool := s.getLsbD 0

/-- The level of phase B in a sample, bit 1 (rule R91). -/
def levelB (s : Sample) : Bool := s.getLsbD 1

/-- SAMPLE `{bPin, aPin}` from the two levels (rule R91). -/
def sampleOf (b a : Bool) : Sample :=
  BitVec.ofBool b ++ BitVec.ofBool a

/-- The event "phase A changed to this level" (rules R92, R93). -/
def eventA (level : Bool) : EdgeEvent := if level then .aRise else .aFall

/-- The event "phase B changed to this level" (rules R92, R93). -/
def eventB (level : Bool) : EdgeEvent := if level then .bRise else .bFall

/-- The events the adapter delivers when the sample goes from `p` to `q` (rule R93): none where
nothing changed, one for each phase that changed. Where both changed, either order may be delivered
(rules R83, R257): `aFirst` is that open choice. -/
def edgeEvents (aFirst : Bool) (p q : Sample) : List EdgeEvent :=
  let a := if levelA p = levelA q then [] else [eventA (levelA q)]
  let b := if levelB p = levelB q then [] else [eventB (levelB q)]
  if aFirst then a ++ b else b ++ a

/-- The sample after an event: the named phase has the named level (rule R92). -/
def applyEvent (e : EdgeEvent) (p : Sample) : Sample :=
  match e with
  | .aFall => sampleOf (levelB p) false
  | .aRise => sampleOf (levelB p) true
  | .bFall => sampleOf false (levelA p)
  | .bRise => sampleOf true (levelA p)

/-- `startState(mode)` (rule R15): `start` and `detent0` are both code 000. -/
def startState : Mode → DecodeState
  | .full => 0b000#3
  | .half => 0b000#3

/-- `SEED[mode][sample]` (rule R222). -/
def seed (mode : Mode) (sample : Sample) : DecodeState :=
  match mode with
  | .full => BitVec.ofNat 3 ([0, 1, 4, 2].getD sample.toNat 0)
  | .half => BitVec.ofNat 3 ([0, 1, 2, 7].getD sample.toNat 0)

/-- The phase sample `{B, A}` a decode state stands for, "believed levels" in rules R129 and R139.
The sentinel of the full-pulse table stands for none. -/
def believedSample (mode : Mode) (ds : DecodeState) : Option Sample :=
  match mode with
  | .full => [some 0b00#2, some 0b01#2, some 0b11#2, some 0b10#2,
              some 0b10#2, some 0b11#2, some 0b01#2, none].getD ds.toNat none
  | .half => some (ds.extractLsb' 0 2)

/-- Whether a code names a state of the mode's table: 111 is the full-pulse sentinel (rule R129),
011 and 100 name no half-pulse state (rule R139). -/
def namedState (mode : Mode) (ds : DecodeState) : Bool :=
  match mode with
  | .full => ds != 0b111#3
  | .half => ds != 0b011#3 && ds != 0b100#3

/-- Whether a code is a rest state of the mode's table: `start`, or `detent0` and `detent1`
(rules R129, R139). -/
def restState (mode : Mode) (ds : DecodeState) : Bool :=
  match mode with
  | .full => ds == 0b000#3
  | .half => ds == 0b000#3 || ds == 0b111#3

end Sys2Proof.Machine
end

