-- ==== Sys2Proof/Machine/Qsm.lean ====
section
/-! DEFINITION. The Quadrature State Machine: the read-only table space of 64 entries of 5 bits
(rule R60), its one access operation, and the transition function (rule R120). -/

namespace Sys2Proof.Machine

/-- The full-pulse table, row-major from address 0 (rule R130). -/
def fullTable : List Nat :=
  [0, 1, 0, 4] ++ [0, 0, 0, 2] ++ [3, 0, 1, 0] ++ [0, 2, 8, 0] ++
  [0, 5, 0, 0] ++ [4, 0, 6, 0] ++ [16, 0, 0, 5] ++ [0, 0, 0, 0]

/-- The half-pulse table, row-major from address 32 (rule R140). -/
def halfTable : List Nat :=
  [0, 1, 0, 2] ++ [0, 1, 1, 15] ++ [2, 23, 0, 2] ++ [7, 7, 7, 7] ++
  [0, 0, 0, 0] ++ [16, 5, 5, 7] ++ [6, 7, 8, 6] ++ [6, 7, 5, 7]

/-- The table space (rule R60): both tables, the full-pulse one first. -/
def tableSpace : List Nat :=
  fullTable ++ halfTable

/-- The table address `{mode, ds, e}` (rules R60, R100). -/
def tableAddr (mode : Mode) (ds : DecodeState) (e : EventCode) : TableAddr :=
  mode.code ++ ds ++ e

/-- `MemRead(addr, 5)`: reads one entry, always succeeds, has no side effect (rules R13, R64). -/
def memRead (addr : TableAddr) : Entry :=
  BitVec.ofNat 5 (tableSpace.getD addr.toNat 0)

/-- `next(entry) = entry[2:0]` (rule R15). -/
def nextField (entry : Entry) : DecodeState :=
  entry.extractLsb' 0 3

/-- `delta(entry) = entry[4:3]` (rule R15). -/
def deltaField (entry : Entry) : BitVec 2 :=
  entry.extractLsb' 3 2

/-- The transition function `(ds, e) -> (next, delta)` under a mode (rule R120); the delta is none
of the three where the entry holds the reserved code. -/
def qsm (mode : Mode) (ds : DecodeState) (e : EventCode) : DecodeState × Option Delta :=
  let entry := memRead (tableAddr mode ds e)
  (nextField entry, Delta.ofCode (deltaField entry))

end Sys2Proof.Machine
end

