-- ==== Sys2Proof/Machine/Ops.lean ====
section
/-! DEFINITION. The operations that the meanings share: the arithmetic of rule R15, the named
register updates, the critical section (rule R70), the admission of an operation (rule R210), and
the body of the edge handler (rule R170), which is all there is of entering and leaving a handler:
entry saves nothing and return restores nothing (rules R260, R261). -/

namespace Sys2Proof.Machine

/-! ### Arithmetic (rule R15) -/

/-- `clamp(v, lo, hi)`; the lower bound is tested first. -/
def clamp (v lo hi : Int) : Int :=
  if v < lo then lo else if v > hi then hi else v

/-- `satinc(v, hi)`. -/
def satinc (v hi : Int) : Int :=
  if v ≥ hi then hi else v + 1

/-- `satdec(v, lo)`. -/
def satdec (v lo : Int) : Int :=
  if v ≤ lo then lo else v - 1

/-! ### Register updates -/

/-- `interruptOff()`: `ien <- 0` (rules R28, R70). -/
def State.interruptOff (s : State) : State := { s with ien := false }

/-- `interruptOn()`: `ien <- 1`, unconditionally (rules R28, R70, R75). -/
def State.interruptOn (s : State) : State := { s with ien := true }

/-- `ds <- v`. -/
def State.setDs (s : State) (v : DecodeState) : State := { s with ds := v }

/-- The three writes of a delta (rule R170 steps 4 and 5): click, position, `changed <- 1`. -/
def State.writeDelta (s : State) (p : Int) (c : Click) : State :=
  { s with live := ⟨p, c⟩, changed := true }

/-- Installs a position with no click in both copies and clears `changed` (rules R190, R195,
R211). -/
def State.install (s : State) (v : Int) : State :=
  { s with live := ⟨v, .noClick⟩, localRec := ⟨v, .noClick⟩, changed := false }

/-- Writes both bounds. -/
def State.setBounds (s : State) (lo hi : Int) : State := { s with minValue := lo, maxValue := hi }

/-- `mode <- m`. -/
def State.setMode (s : State) (m : Mode) : State := { s with mode := m }

/-- `life <- l`. -/
def State.setLife (s : State) (l : Life) : State := { s with life := l }

/-- `local <- live; changed <- 0` (rule R185 step 2). -/
def State.copyLive (s : State) : State := { s with localRec := s.live, changed := false }

/-- `local.click <- NoClick` (rule R185 step 4). -/
def State.clearLocalClick (s : State) : State := { s with localRec := ⟨s.localRec.pos, .noClick⟩ }

/-- Writes the callback register (rule R230 step 2): with no callback the context is dropped. -/
def State.setCallback (s : State) (f : Option Token) (ctx : Token) : State :=
  { s with cb := f.map fun c => ⟨c, ctx⟩ }

/-- Returns a result to the application (log 5). -/
def State.returning (s : State) (r : Result) : State := { s with result := r }

/-- The adapter holds one more notification, behind those it holds (rules R35, R249). -/
def State.hold (s : State) (e : EdgeEvent) : State := { s with held := s.held ++ [e] }

/-- The adapter holds exactly these notifications. -/
def State.setHeld (s : State) (es : List EdgeEvent) : State := { s with held := es }

/-- The inputs still to come. -/
def State.setInbox (s : State) (is : List Input) : State := { s with inbox := is }

/-! ### The callback -/

/-- The call that `onEdge` makes in this state (rule R174): none where no callback is registered;
otherwise the callback with the handle, a copy of the live record, and its context. -/
def callbackCall (s : State) : List CallbackCall :=
  match s.cb with
  | none => []
  | some r => [⟨r.callback, Config.controllerHandle, s.live, r.userContext⟩]

/-- `if cb != none then call cb(handle, (live.pos, live.click), userContext)` (rule R170). The
callback changes no register and invokes no operation (rule R254): the call is recorded. -/
def State.callBack (s : State) : State := { s with calls := s.calls ++ callbackCall s }

/-! ### The edge handler -/

/-- The body of `onEdge(e)`, steps 1 to 6 of rule R170, one atomic block (rule R78). The reserved
delta code is refused (rule R105); neither table has it. -/
def onEdgeBody (e : EdgeEvent) (s : State) : Answer :=
  let r := qsm s.mode s.ds e.code
  let s1 := s.setDs r.1
  match r.2 with
  | none => .refused .reservedDelta
  | some .none => .next s1
  | some .increment =>
      .next (s1.writeDelta (satinc s.live.pos s.maxValue) (clickOf .increment)).callBack
  | some .decrement =>
      .next (s1.writeDelta (satdec s.live.pos s.minValue) (clickOf .decrement)).callBack

/-- A notification for one event. An `onEdge` starts only when the instance is Active and delivery
is unmasked; while it is masked the adapter holds the event; in another lifecycle state no event
can occur and there is no step (rules R161, R210, V36; log 8). -/
def edgeNotify (e : EdgeEvent) (s : State) : Answer :=
  if s.destroyed then .refused .instanceDestroyed
  else match s.life with
    | .active => if s.ien then onEdgeBody e s else .next (s.hold e)
    | .configured => .refused .edgeWhileInactive
    | .unconfigured => .refused .edgeWhileInactive

/-! ### Admission -/

/-- Runs an operation that every lifecycle state admits (rule R210); an instance that has been
destroyed admits none (rule R228). -/
def admitAlways (s : State) (k : State → Answer) : Answer :=
  if s.destroyed then .refused .instanceDestroyed else k s

/-- Runs an operation that is admitted when Configured or Active and refused when Unconfigured
(rules R180, R210). -/
def admitConfigured (s : State) (k : State → Answer) : Answer :=
  admitAlways s fun s =>
    match s.life with
    | .unconfigured => .refused .unconfigured
    | .configured => k s
    | .active => k s

/-! ### The critical section -/

/-- What a critical section captured for the steps that follow it. -/
inductive Capture
  /-- `readState`: whether the local copy is fresh. -/
  | freshness (fresh : Bool)
  /-- `setValueAndReadBoth`: the two records. -/
  | snapshots (old new : Record)
  /-- `reconfigureBounds`: the two records, or none when the bounds were invalid. -/
  | rebounding (records : Option (Record × Record))
  /-- `attachCallback`: nothing. -/
  | nothing
deriving DecidableEq, Repr

/-- The steps after `interruptOn()`: they touch only the local copy and what was captured
(rules R73, R185 steps 4 and 5, R190 step 4, R195 step 4). -/
def afterCritical (c : Capture) (s : State) : State :=
  match c with
  | .freshness true => s.returning (.read s.localRec true)
  | .freshness false => s.clearLocalClick.returning (.read s.clearLocalClick.localRec false)
  | .snapshots old new => s.returning (.both old new)
  | .rebounding (some r) => s.returning (.rebound r.1 r.2)
  | .rebounding none => s.returning .reboundFailed
  | .nothing => s.returning .nothing

/-- A whole operation with a critical section (rules R70, R72): mask, the steps inside, unmask, the
steps after. One atomic transition, which is exact (rule R79). -/
def criticalSection (inside : State → State × Capture) (s : State) : State :=
  let r := inside s.interruptOff
  afterCritical r.2 r.1.interruptOn

/-! ### The steps inside the critical sections (rule R72) -/

/-- `readState` step 2 (rule R185). -/
def readInside (s : State) : State × Capture :=
  if s.changed then (s.copyLive, .freshness true) else (s, .freshness false)

/-- `setValueAndReadBoth` step 2 (rule R190). -/
def setValueInside (newValue : Int) (s : State) : State × Capture :=
  let v := clamp newValue s.minValue s.maxValue
  (s.install v, .snapshots (snapshot s) ⟨v, .noClick⟩)

/-- `reconfigureBounds` step 2 (rule R195): invalid bounds change nothing (rule R196). -/
def reconfigureInside (newMin newMax newCurrent : Int) (s : State) : State × Capture :=
  if newMin < newMax then
    let v := clamp newCurrent newMin newMax
    ((s.setBounds newMin newMax).install v, .rebounding (some (snapshot s, ⟨v, .noClick⟩)))
  else (s, .rebounding none)

/-- `attachCallback` step 2 (rule R230). -/
def attachInside (f : Option Token) (ctx : Token) (s : State) : State × Capture :=
  (s.setCallback f ctx, .nothing)

/-! ### Deactivation and destruction -/

/-- Deactivates edge delivery (rule R225 step 1): from Active to Configured, and the notifications
the adapter was holding are dropped (rule R227); in any other lifecycle state nothing happens
(rules R210, R226). -/
def State.deactivate (s : State) : State :=
  match s.life with
  | .active => (s.setLife .configured).setHeld []
  | .configured => s
  | .unconfigured => s

/-- Destroys the instance: performs `end`, then admits no operation any more (rule R228, log 10). -/
def State.destroy (s : State) : State :=
  { s.deactivate with destroyed := true }

end Sys2Proof.Machine
end

