-- ==== Sys2Proof/Machine/App.lean ====
section
/-! DEFINITION. The three application operations (`42_controller_app.md`), each one critical section
and the steps after it. -/

namespace Sys2Proof.Machine

/-- `readState()` (rule R185). -/
def execReadState (s : State) : Answer :=
  admitConfigured s fun s => .next (criticalSection readInside s)

/-- `setValueAndReadBoth(newValue)` (rule R190). -/
def execSetValueAndReadBoth (newValue : Int) (s : State) : Answer :=
  admitConfigured s fun s => .next (criticalSection (setValueInside newValue) s)

/-- `reconfigureBounds(newMin, newMax, newCurrent)` (rules R195, R196). -/
def execReconfigureBounds (newMin newMax newCurrent : Int) (s : State) : Answer :=
  admitConfigured s fun s => .next (criticalSection (reconfigureInside newMin newMax newCurrent) s)

end Sys2Proof.Machine
end

