-- ==== Sys2Proof/Machine/Edge.lean ====
section
/-! DEFINITION. The four edge operations (`41_controller_edge.md`): rule R170 with the event code
fixed (rule R164). -/

namespace Sys2Proof.Machine

/-- `onEdge(A_FALL)` (rule R165). -/
def execOnEdgeAFall (s : State) : Answer := edgeNotify .aFall s

/-- `onEdge(A_RISE)` (rule R166). -/
def execOnEdgeARise (s : State) : Answer := edgeNotify .aRise s

/-- `onEdge(B_FALL)` (rule R167). -/
def execOnEdgeBFall (s : State) : Answer := edgeNotify .bFall s

/-- `onEdge(B_RISE)` (rule R168). -/
def execOnEdgeBRise (s : State) : Answer := edgeNotify .bRise s

end Sys2Proof.Machine
end

