-- ==== Sys2Proof/Machine/Lifecycle.lean ====
section
/-! DEFINITION. The four lifecycle operations (`43_controller_lifecycle.md`). -/

namespace Sys2Proof.Machine

/-- `configure(minValue, maxValue, initialValue, mode)` (rules R211, R212): deactivates first, then
stores its operands whether or not the bounds are valid, and reports whether they are. -/
def execConfigure (lo hi initialValue : Int) (m : Mode) (s : State) : Answer :=
  admitAlways s fun s =>
    let s1 := ((s.deactivate.setMode m).setBounds lo hi).setDs (startState m)
    let s2 := (s1.install (clamp initialValue lo hi)).setLife .configured
    .next (s2.returning (.ok (decide (lo < hi))))

/-- `begin()` with its environment inputs (rules R215, R216): false and no change when Unconfigured,
when the bounds are invalid, or when the adapter failed; refused when Active (rule R219). The settle
delay is timing only (rule R217). -/
def execBegin (adapterOk : Bool) (sample : Sample) (s : State) : Answer :=
  admitAlways s fun s =>
    match s.life with
    | .unconfigured => .next (s.returning (.ok false))
    | .active => .refused .beginWhileActive
    | .configured =>
        if s.minValue < s.maxValue then
          if adapterOk then
            .next (((s.setDs (seed s.mode sample)).setLife .active).returning (.ok true))
          else .next (s.returning (.ok false))
        else .next (s.returning (.ok false))

/-- `end()` (rules R225 to R227). -/
def execEnd (s : State) : Answer :=
  admitAlways s fun s => .next (s.deactivate.returning .nothing)

/-- `attachCallback(callback, userContext)` (rule R230). -/
def execAttachCallback (f : Option Token) (ctx : Token) (s : State) : Answer :=
  admitAlways s fun s => .next (criticalSection (attachInside f ctx) s)

end Sys2Proof.Machine
end

