-- ==== Sys2Proof/Machine/Dispatch.lean ====
section
/-! DEFINITION. The meaning of every operation, one arm for each constructor. -/

namespace Sys2Proof.Machine

/-- The meaning of an operation in a state. -/
def exec (i : Instr) (s : State) : Host.Outcome State Fault Refusal :=
  match i with
  | .onEdgeAFall => Sys2Proof.Machine.execOnEdgeAFall s
  | .onEdgeARise => Sys2Proof.Machine.execOnEdgeARise s
  | .onEdgeBFall => Sys2Proof.Machine.execOnEdgeBFall s
  | .onEdgeBRise => Sys2Proof.Machine.execOnEdgeBRise s
  | .configure lo hi v m => Sys2Proof.Machine.execConfigure lo hi v m s
  | .beginOp ok sample => Sys2Proof.Machine.execBegin ok sample s
  | .endOp => Sys2Proof.Machine.execEnd s
  | .readState => Sys2Proof.Machine.execReadState s
  | .setValueAndReadBoth v => Sys2Proof.Machine.execSetValueAndReadBoth v s
  | .reconfigureBounds lo hi v => Sys2Proof.Machine.execReconfigureBounds lo hi v s
  | .attachCallback f ctx => Sys2Proof.Machine.execAttachCallback f ctx s

end Sys2Proof.Machine
end

