-- ==== Sys2Proof/Machine/Fetch.lean ====
section
/-! DEFINITION. Which operation comes next. Nothing is fetched from a program memory (rules R3, R30):
operations come from outside, in a total order (rules R79, R108), and here from the inbox. -/

namespace Sys2Proof.Machine

/-- What the machine does next. -/
inductive Selection
  /-- Nothing has been invoked: nothing executes (rule R281). -/
  | idle
  /-- Runs an operation in the state from which its input has been taken. -/
  | run (i : Instr) (s : State)
  /-- Destroys the instance (rule R228). -/
  | destroy (s : State)
  /-- The input has no meaning. -/
  | refuse (r : Refusal)
deriving DecidableEq, Repr

/-- Takes the first input of the inbox. -/
def selectInput (s : State) : Selection :=
  match s.inbox with
  | [] => .idle
  | .destroy :: rest => if s.destroyed then .refuse .instanceDestroyed else .destroy (s.setInbox rest)
  | .operation port bits :: rest =>
      match decode Config.positionWidth port bits with
      | .ok i => .run i (s.setInbox rest)
      | .error e => .refuse (.malformed e)

/-- Chooses what comes next (rules R249, R258): a notification that the adapter holds is delivered,
oldest first, as soon as delivery is active and unmasked; otherwise the next input is taken. -/
def select (s : State) : Selection :=
  match s.held with
  | [] => selectInput s
  | e :: rest =>
      match s.life, s.ien, s.destroyed with
      | .active, true, false => .run e.instr (s.setHeld rest)
      | _, _, _ => selectInput s

/-- The input that a word of the operation table stands for, at the front of the inbox (log 4).
What the adapter still holds would be delivered first, so it is taken away. -/
def placeTableWord (s : State) (nbits w : Nat) : State :=
  let input := tableInput Config.positionWidth nbits w
  (s.setHeld []).setInbox (.operation input.1 input.2 :: s.inbox)

end Sys2Proof.Machine
end

