-- ==== Sys2Proof/Machine/Step.lean ====
section
/-! DEFINITION. One step of the machine: one whole operation (rule R17). -/

namespace Sys2Proof.Machine

/-- One step: runs what comes next, and leaves the state as it is when nothing does (rule R281,
log 6). -/
def step (s : State) : Host.Outcome State Fault Refusal :=
  match select s with
  | .idle => .next s
  | .run i s' => exec i s'
  | .destroy s' => .next s'.destroy
  | .refuse r => .refused r

/-- The state with the operation of a table word placed where `step` takes its next input. -/
def State.withFetchWord (s : State) (nbits w : Nat) : State :=
  placeTableWord s nbits w

end Sys2Proof.Machine
end

