-- ==== Sys2Proof/Machine/Program.lean ====
section
/-! DEFINITION. Programs: total orders of operations (rule R108; exact by rule R79), and the
pseudo-operations of rule R109. -/

namespace Sys2Proof.Machine

/-- Runs the operations in order, stopping at the first that has no meaning. -/
def runProgram : List Instr → State → Answer
  | [], s => .next s
  | i :: rest, s =>
      match exec i s with
      | .next t => runProgram rest t
      | .fault r => .fault r
      | .refused r => .refused r

/-- `CW_CYCLE` (rule R109): one full clockwise cycle of the phases. -/
def cwCycle : List Instr := [.onEdgeARise, .onEdgeBRise, .onEdgeAFall, .onEdgeBFall]

/-- `CCW_CYCLE` (rule R109): the mirror of `CW_CYCLE`. -/
def ccwCycle : List Instr := [.onEdgeBRise, .onEdgeARise, .onEdgeBFall, .onEdgeAFall]

/-- `setValue(v)` (rule R109): `setValueAndReadBoth(v)`, its results discarded by the caller. -/
def setValue (v : Int) : List Instr := [.setValueAndReadBoth v]

/-- The events a program delivers, in order. -/
def edgesOf (prog : List Instr) : List EdgeEvent := prog.filterMap Instr.event?

/-- The HOST operations of a program, in order. -/
def hostOps (prog : List Instr) : List Instr := prog.filter fun i => i.event?.isNone

/-- The sample after a sequence of events. -/
def applyEvents (es : List EdgeEvent) (p : Sample) : Sample :=
  es.foldl (fun q e => applyEvent e q) p

/-- Every event of the sequence is physically possible from the sample: it changes the named phase
to a level it did not have (rule R136). -/
def physicallyPossible : List EdgeEvent → Sample → Bool
  | [], _ => true
  | e :: es, p => applyEvent e p != p && physicallyPossible es (applyEvent e p)

end Sys2Proof.Machine
end

