-- ==== Sys2Proof/Machine/Fine.lean ====
section
/-! DEFINITION. The fine-grained view of one instance (rules R70 to R80): an application operation
takes its critical section step by step, notifications arrive at any moment and are held by the
adapter, and the user callback takes time. It exists so that rule R79, one atomic transition for
each operation, can be stated and proved. Contract breaches that it can show are refused by name
(rules R290 to R293, log 12). -/

namespace Sys2Proof.Machine

/-- Where the application context stands. -/
inductive AppPhase
  /-- No operation is in progress. -/
  | idle
  /-- After `interruptOff()` of this operation. -/
  | masked (i : Instr)
  /-- After the steps inside the critical section. -/
  | captured (c : Capture)
  /-- After `interruptOn()`, before the steps that follow it. -/
  | unmasked (c : Capture)
deriving DecidableEq, Repr

/-- One instance with an application operation, and perhaps a callback, in progress. -/
structure FineState where
  /-- The registers and what the adapter holds. -/
  core : State
  /-- Where the application context stands. -/
  app : AppPhase
  /-- Whether an `onEdge` is in progress, in its callback. -/
  inCallback : Bool
deriving DecidableEq, Repr

/-- What can happen next. -/
inductive FineEvent
  /-- The application calls an operation. -/
  | call (i : Instr)
  /-- The application context takes the next step of its operation. -/
  | advance
  /-- A phase level changes and the adapter notes it (rule R249). -/
  | arrive (e : EdgeEvent)
  /-- The oldest notification starts its `onEdge`. -/
  | deliver
  /-- The user callback returns, and `onEdge` with it (rule R261). -/
  | callbackReturns
  /-- The user callback invokes an operation of its own instance (rule R290). -/
  | callbackCalls (i : Instr)
deriving DecidableEq, Repr

/-- What a step of the fine-grained system answers. -/
abbrev FineAnswer := Host.Outcome FineState Fault Refusal

/-- The steps inside the critical section of an operation, none where it has no critical section
(rule R72). -/
def insideOf : Instr → Option (State → State × Capture)
  | .readState => some readInside
  | .setValueAndReadBoth v => some (setValueInside v)
  | .reconfigureBounds lo hi v => some (reconfigureInside lo hi v)
  | .attachCallback f ctx => some (attachInside f ctx)
  | .onEdgeAFall => none
  | .onEdgeARise => none
  | .onEdgeBFall => none
  | .onEdgeBRise => none
  | .configure _ _ _ _ => none
  | .beginOp _ _ => none
  | .endOp => none

/-- The application calls `i` while no operation is in progress. One with a critical section enters
it, if the instance admits the operation at all; `configure`, `begin` and `end` need none (rule
R72); `onEdge` is not the application's to call (rule R264). -/
def fineCall (i : Instr) (f : FineState) : FineAnswer :=
  match i.event?, exec i f.core with
  | some _, _ => .refused .notEnabled
  | none, .refused r => .refused r
  | none, .fault r => .fault r
  | none, .next t =>
      match insideOf i with
      | some _ => .next { f with core := f.core.interruptOff, app := .masked i }
      | none => .next { f with core := t }

/-- The next step of the application operation in progress. -/
def fineAdvance (f : FineState) : FineAnswer :=
  match f.app with
  | .idle => .refused .notEnabled
  | .masked i =>
      match insideOf i with
      | some inside =>
          .next { f with core := (inside f.core).1, app := .captured (inside f.core).2 }
      | none => .refused .notEnabled
  | .captured c => .next { f with core := f.core.interruptOn, app := .unmasked c }
  | .unmasked c => .next { f with core := afterCritical c f.core, app := .idle }

/-- The oldest held notification starts its `onEdge`, which runs whole (rule R162) and is in
progress until its callback, if it calls one, returns. -/
def fineDeliver (f : FineState) : FineAnswer :=
  match f.core.life, f.core.ien, f.core.held with
  | .active, true, e :: rest =>
      match exec e.instr (f.core.setHeld rest) with
      | .next t => .next { f with core := t, inCallback := decide (f.core.calls.length < t.calls.length) }
      | .fault r => .fault r
      | .refused r => .refused r
  | _, _, _ => .refused .notEnabled

/-- One step of the fine-grained system. While an `onEdge` is in progress the application context
does not run (rules R70, R258) and no second `onEdge` starts (rule R162). -/
def fineStep (ev : FineEvent) (f : FineState) : FineAnswer :=
  match ev with
  | .call i =>
      if f.inCallback then .refused .notEnabled
      else if f.app = .idle then fineCall i f else .refused .secondApplication
  | .advance => if f.inCallback then .refused .notEnabled else fineAdvance f
  | .arrive e =>
      if f.core.life = .active then .next { f with core := f.core.hold e }
      else .refused .edgeWhileInactive
  | .deliver => if f.inCallback then .refused .handlerNesting else fineDeliver f
  | .callbackReturns =>
      if f.inCallback then .next { f with inCallback := false } else .refused .notEnabled
  | .callbackCalls _ =>
      if f.inCallback then .refused .callbackReentry else .refused .notEnabled

/-- Runs a list of events, stopping at the first that is refused. -/
def fineRun : List FineEvent → FineState → FineAnswer
  | [], f => .next f
  | ev :: rest, f =>
      match fineStep ev f with
      | .next g => fineRun rest g
      | .fault r => .fault r
      | .refused r => .refused r

/-- The operations the application called, in order. -/
def callsOf (evs : List FineEvent) : List Instr :=
  evs.filterMap fun
    | .call i => some i
    | _ => none

/-- The events that arrived, in order. -/
def arrivalsOf (evs : List FineEvent) : List EdgeEvent :=
  evs.filterMap fun
    | .arrive e => some e
    | _ => none

/-- How many `onEdge`s started. -/
def deliveriesIn (evs : List FineEvent) : Nat :=
  evs.countP fun ev => decide (ev = .deliver)

end Sys2Proof.Machine
end

