-- ==== Sys2Proof/Safety.lean ====
section
/-! DEFINITION. What counts as a safe run: the invariants of rule R34, one definition for each item,
and that every position fits its width (rules R11, R20). Where an item speaks of a register that has
no value before `configure` (rule R38), it is guarded by the lifecycle state. -/

namespace Sys2Proof.Machine

/-- R34 item 1: an Active instance has valid bounds. -/
abbrev BoundsValidWhenActive (s : State) : Prop :=
  s.life = .active → s.minValue < s.maxValue

/-- `lo <= v <= hi`. -/
abbrev InBounds (v lo hi : Int) : Prop := lo ≤ v ∧ v ≤ hi

/-- R34 item 2: with valid bounds both positions are within them. -/
abbrev PositionsInBounds (s : State) : Prop :=
  s.life ≠ .unconfigured → s.minValue < s.maxValue →
    InBounds s.live.pos s.minValue s.maxValue ∧ InBounds s.localRec.pos s.minValue s.maxValue

/-- R34 item 3: while `changed` is 0 the local position is the live one. -/
abbrev LocalIsCurrent (s : State) : Prop :=
  s.life ≠ .unconfigured → s.changed = false → s.localRec.pos = s.live.pos

/-- R34 item 4: while `changed` is 1 a click is pending. -/
abbrev ClickIsPending (s : State) : Prop :=
  s.life ≠ .unconfigured → s.changed = true → s.live.click ≠ .noClick

/-- R34 item 5: the decode state is one of the mode's named states. -/
abbrev DecodeStateIsNamed (s : State) : Prop :=
  s.life ≠ .unconfigured → namedState s.mode s.ds = true

/-- R34 item 6: delivery is unmasked between operations. -/
abbrev DeliveryUnmasked (s : State) : Prop := s.ien = true

/-- The adapter holds nothing for an instance that is not Active (rules R227, R251). -/
abbrev NothingHeldWhenInactive (s : State) : Prop := s.life ≠ .active → s.held = []

/-- The invariants of rule R34 together. -/
structure Inv (s : State) : Prop where
  /-- Item 1. -/
  bounds : BoundsValidWhenActive s
  /-- Item 2. -/
  positions : PositionsInBounds s
  /-- Item 3. -/
  current : LocalIsCurrent s
  /-- Item 4. -/
  pending : ClickIsPending s
  /-- Item 5. -/
  named : DecodeStateIsNamed s
  /-- Item 6. -/
  unmasked : DeliveryUnmasked s
  /-- The adapter's part. -/
  quiet : NothingHeldWhenInactive s

/-- Every register that rule R20 gives `W` bits holds a `W`-bit value (rule R11), once `configure`
has written it. -/
abbrev RegistersFit (W : Nat) (s : State) : Prop :=
  s.life ≠ .unconfigured →
    FitsWidth W s.minValue ∧ FitsWidth W s.maxValue ∧
    FitsWidth W s.live.pos ∧ FitsWidth W s.localRec.pos

/-- An `onEdge` of this instance can start (rule R161). -/
abbrev EdgeEnabled (s : State) : Prop :=
  s.destroyed = false ∧ s.life = .active ∧ s.ien = true

/-- The instance admits the three application operations (rules R180, R210). -/
abbrev AppAdmitted (s : State) : Prop :=
  s.destroyed = false ∧ s.life ≠ .unconfigured

end Sys2Proof.Machine
end

