-- ==== Sys2Proof/Certificates/Slice0/Obligations.lean ====
section
/-! DEFINITION. The statements for the provers. Where a statement rests on one of the spec's own
decisions (D1 to D34 of `92_eei_decisions.md`) or on a choice of the model, its docstring says so. -/

open Sys2Proof Sys2Proof.Machine

namespace Sys2Proof.Claims

/-- What `onEdge` leaves after an increment into decode state `n` (rule R170 step 4): the position
saturates at the upper bound, the click is `UpClick`, `changed` is set, and a registered callback is
called with the new live record. Everything else is unchanged. -/
def afterIncrement (s : State) (n : DecodeState) : State :=
  let r : Record := ⟨if s.live.pos ≥ s.maxValue then s.maxValue else s.live.pos + 1, .upClick⟩
  { s with
    ds := n
    live := r
    changed := true
    calls := s.calls ++ (s.cb.toList.map fun g => ⟨g.callback, Config.controllerHandle, r, g.userContext⟩) }

/-- What `onEdge` leaves after a decrement into decode state `n` (rule R170 step 5). -/
def afterDecrement (s : State) (n : DecodeState) : State :=
  let r : Record := ⟨if s.live.pos ≤ s.minValue then s.minValue else s.live.pos - 1, .downClick⟩
  { s with
    ds := n
    live := r
    changed := true
    calls := s.calls ++ (s.cb.toList.map fun g => ⟨g.callback, Config.controllerHandle, r, g.userContext⟩) }

/-- The decode state found in one column of the tables, `full` for the full-pulse table and `half`
for the half-pulse one, by row. -/
def column (full half : List Nat) (s : State) : DecodeState :=
  match s.mode with
  | .full => BitVec.ofNat 3 (full.getD s.ds.toNat 0)
  | .half => BitVec.ofNat 3 (half.getD s.ds.toNat 0)

/-- The three application operations of `42_controller_app.md`. -/
def isAppOperation : Instr → Bool
  | .readState => true
  | .setValueAndReadBoth _ => true
  | .reconfigureBounds _ _ _ => true
  | _ => false

/-- The delta of the table entry that `e` meets in `s`. -/
def deltaAt (s : State) (e : EdgeEvent) : Option Delta :=
  (qsm s.mode s.ds e.code).2

/-- Two states that agree on everything that holds a value while the instance is Unconfigured
(rule R38): `life`, `ien`, `cb`, and the model's own fields. -/
def AgreeUnconfigured (s t : State) : Prop :=
  s.life = .unconfigured ∧ t.life = .unconfigured ∧ s.ien = t.ien ∧ s.cb = t.cb ∧
  s.destroyed = t.destroyed ∧ s.held = t.held ∧ s.inbox = t.inbox ∧ s.result = t.result ∧
  s.calls = t.calls

/-- Two answers that no observer of the specified registers can tell apart. -/
def SameAnswer : Answer → Answer → Prop
  | .next s, .next t => s = t ∨ AgreeUnconfigured s t
  | .refused a, .refused b => a = b
  | .fault _, _ => False
  | _, _ => False

/-- Forward steps of the full-pulse table (rule R124), with the codes of rule R129. -/
def fullForward : List ((DecodeState × EdgeEvent) × (DecodeState × Delta)) :=
  [((0, .aRise), (1, .none)), ((1, .bRise), (2, .none)), ((2, .aFall), (3, .none)),
   ((3, .bFall), (0, .increment)),
   ((0, .bRise), (4, .none)), ((4, .aRise), (5, .none)), ((5, .bFall), (6, .none)),
   ((6, .aFall), (0, .decrement))]

/-- Forward steps of the half-pulse table (rule R127), with the codes of rule R139. -/
def halfForward : List ((DecodeState × EdgeEvent) × (DecodeState × Delta)) :=
  [((0, .aRise), (1, .none)), ((1, .bRise), (7, .increment)),
   ((0, .bRise), (2, .none)), ((2, .aRise), (7, .decrement)),
   ((7, .aFall), (6, .none)), ((6, .bFall), (0, .increment)),
   ((7, .bFall), (5, .none)), ((5, .aFall), (0, .decrement))]

/-- The movements that a sequence of events makes from a decode state: the deltas of the entries it
meets, those that are no movement left out. -/
def movements (m : Mode) : DecodeState → List EdgeEvent → List Delta
  | _, [] => []
  | ds, e :: es =>
      match qsm m ds e.code with
      | (n, some .increment) => .increment :: movements m n es
      | (n, some .decrement) => .decrement :: movements m n es
      | (n, _) => movements m n es

/-- The position after one movement, within `[lo, hi]` (rules R171, R172). -/
def moved (lo hi : Int) (p : Int) : Delta → Int
  | .none => p
  | .increment => if p ≥ hi then hi else p + 1
  | .decrement => if p ≤ lo then lo else p - 1

/-- The event that undoes an event: the same phase changes back. -/
def undo : EdgeEvent → EdgeEvent
  | .aFall => .aRise
  | .aRise => .aFall
  | .bFall => .bRise
  | .bRise => .bFall

/-- Backward steps: each forward step without a delta undone, with no delta (rules R126, R127). -/
def backwardOf (fwd : List ((DecodeState × EdgeEvent) × (DecodeState × Delta))) :
    List ((DecodeState × EdgeEvent) × (DecodeState × Delta)) :=
  (fwd.filter fun p => p.2.2 = .none).map fun p => ((p.2.1, undo p.1.2), (p.1.1, .none))

end Sys2Proof.Claims

open Sys2Proof.Claims

/-! ### Reset and the machine as a whole -/

/-- R38, R280, R281 (decision D26): after reset `life` is Unconfigured, `ien` is 1, `cb` is none, no
edge can occur, and with no input a step changes nothing. The values of the other registers are the
model's choice (log 2) and this says nothing about them. -/
def Obligations.ResetIsInert : Prop :=
  State.reset.life = .unconfigured ∧ State.reset.ien = true ∧ State.reset.cb = none ∧
  (∀ e : EdgeEvent, exec e.instr State.reset = .refused .edgeWhileInactive) ∧
  step State.reset = .next State.reset

/-- The invariants of R34 and the position widths hold after reset. -/
def Obligations.ResetMeetsTheInvariants : Prop :=
  Inv State.reset ∧ RegistersFit Config.positionWidth State.reset

/-- R34, R11: every step keeps the invariants and the position widths, from every state that meets
them. Items 2, 3 and 5 of R34 rest on decisions D1, D2, D6, D9, D17; that nothing is held for an
instance that is not Active rests on D13. -/
def Obligations.EveryStepKeepsTheInvariants : Prop :=
  ∀ s t : State, Inv s → RegistersFit Config.positionWidth s → step s = .next t →
    Inv t ∧ RegistersFit Config.positionWidth t

/-- R11, R171, R172, at every width `W`: an operation whose operands are `W`-bit values leaves
`W`-bit values in every position register; nothing overflows. -/
def Obligations.PositionsFitEveryWidth : Prop :=
  ∀ (W : Nat) (i : Instr) (s t : State), 0 < W → i.wellFormed W = true →
    Inv s → RegistersFit W s → exec i s = .next t → RegistersFit W t

/-- A step takes the first input of the inbox and runs the operation it decodes to, unless a held
notification can be delivered. Inputs are the model's way to present operations (log 6). -/
def Obligations.StepRunsTheDecodedOperation : Prop :=
  ∀ (s : State) (port : Port) (bits : List Bool) (rest : List Input) (i : Instr),
    (s.held = [] ∨ ¬ EdgeEnabled s) → s.inbox = .operation port bits :: rest →
    decode Config.positionWidth port bits = .ok i →
    step s = exec i { s with inbox := rest }

/-- R249, R258 (decision D13): a notification the adapter holds is delivered, oldest first, before
the next input, as soon as the instance is Active and delivery is unmasked. -/
def Obligations.StepDeliversHeldEdgesFirst : Prop :=
  ∀ (s : State) (e : EdgeEvent) (rest : List EdgeEvent), EdgeEnabled s → s.held = e :: rest →
    step s = exec e.instr { s with held := rest }

/-- A word of the operation table, placed as the next input, is what the next step runs (log 4). -/
def Obligations.StepRunsATableWord : Prop :=
  ∀ (s : State) (nbits w : Nat) (i : Instr), decodeTableWord nbits w = some i →
    step (s.withFetchWord nbits w) = exec i { s with held := [] }

/-- R105 (decision D32): an input that is no encoding is refused with the decoder's reason, and the
reserved HOST selector 111 has the reason of its own at every width. -/
def Obligations.MalformedInputIsRefused : Prop :=
  (∀ (s : State) (port : Port) (bits : List Bool) (rest : List Input) (e : DecodeError),
    (s.held = [] ∨ ¬ EdgeEnabled s) → s.inbox = .operation port bits :: rest →
    decode Config.positionWidth port bits = .error e →
    step s = .refused (.malformed e)) ∧
  (∀ (W : Nat) (bits : List Bool), decode W .host (bitsOf 3 7 ++ bits) = .error .reservedSelector)

/-- R228 (decision D30, log 10): destruction performs `end`, and a destroyed instance admits no
operation. -/
def Obligations.DestructionEndsTheInstance : Prop :=
  (∀ (s : State) (rest : List Input), s.destroyed = false → (s.held = [] ∨ ¬ EdgeEnabled s) →
    s.inbox = .destroy :: rest →
    ∃ t, step s = .next t ∧ t.destroyed = true ∧ t.life ≠ .active) ∧
  (∀ (i : Instr) (s : State), s.destroyed = true → exec i s = .refused .instanceDestroyed)

/-! ### Encodings -/

/-- R92, R102, P1, P4: some operations written out from their encodings decode to themselves. The
packing of the HOST operand list is the model's (log 3). -/
def Obligations.SampleWordsDecode : Prop :=
  decode 16 .edge [false, false] = .ok .onEdgeAFall ∧
  decode 16 .edge [true, false] = .ok .onEdgeARise ∧
  decode 16 .edge [false, true] = .ok .onEdgeBFall ∧
  decode 16 .edge [true, true] = .ok .onEdgeBRise ∧
  decode 16 .host [false, true, false] = .ok .endOp ∧
  decode 16 .host [true, true, false] = .ok .readState ∧
  decode 16 .host [true, false, false, true, true, false] = .ok (.beginOp true 0b01#2) ∧
  decode 16 .host (bitsOf 3 0b100 ++ bitsOf 16 0xFFFB) = .ok (.setValueAndReadBoth (-5)) ∧
  decode 16 .host (bitsOf 3 0b000 ++ bitsOf 16 0xFFEC ++ bitsOf 16 0x0014 ++ bitsOf 16 0 ++ [false])
    = .ok (.configure (-20) 20 0 .full)

/-- R102, R103, R104: at every width `W`, decoding the encoding of an operation gives it back. -/
def Obligations.DecodeOfEncode : Prop :=
  ∀ (W : Nat) (i : Instr), 0 < W → i.wellFormed W = true →
    decode W (encode W i).1 (encode W i).2 = .ok i

/-- R103, R104: at every width `W`, an operation is decoded from its own encoding only, and its
operands fit the width. -/
def Obligations.EncodeOfDecode : Prop :=
  ∀ (W : Nat) (port : Port) (bits : List Bool) (i : Instr), 0 < W →
    decode W port bits = .ok i → i.wellFormed W = true ∧ encode W i = (port, bits)

/-- R101 (decision D23): the packed form of a record holds the record. -/
def Obligations.RecordPacksAndUnpacks : Prop :=
  ∀ (W : Nat) (r : Record), 0 < W → FitsWidth W r.pos → Record.unpack W (r.pack W) = some r

/-- R93: the events that the adapter computes from two samples are physically possible, lead from
the first sample to the second, and are one for each phase that changed, in either order. -/
def Obligations.AdapterEventsFollowTheLevels : Prop :=
  ∀ (aFirst : Bool) (p q : Sample),
    applyEvents (edgeEvents aFirst p q) p = q ∧
    physicallyPossible (edgeEvents aFirst p q) p = true ∧
    (edgeEvents aFirst p q).length =
      (if levelA p = levelA q then 0 else 1) + (if levelB p = levelB q then 0 else 1)

/-! ### The Quadrature State Machine -/

/-- R124, R125, R126, R131 row 7, over the codes of R129 (decision D1): the full-pulse table is its
forward paths, their undoing, and the tie-break to `start` with no delta everywhere else, the
sentinel's row among them. -/
def Obligations.FullTableIsItsPaths : Prop :=
  ∀ (ds : DecodeState) (e : EdgeEvent),
    qsm .full ds e.code =
      match (fullForward ++ backwardOf fullForward).lookup (ds, e) with
      | some (n, d) => (n, some d)
      | none => (0, some .none)

/-- R127, R128, over the codes of R139 (decision D2): the half-pulse table is its forward paths,
their undoing, a self-loop with no delta for every other event in a named state, and the nearest
detent with no delta from the two codes that name no state. -/
def Obligations.HalfTableIsItsPaths : Prop :=
  ∀ (ds : DecodeState) (e : EdgeEvent),
    qsm .half ds e.code =
      match (halfForward ++ backwardOf halfForward).lookup (ds, e) with
      | some (n, d) => (n, some d)
      | none => (if ds = 3 then 7 else if ds = 4 then 0 else ds, some .none)

/-- R125: in the full-pulse table exactly two entries have a delta: the fall of B in `cw3` an
increment, the fall of A in `ccw3` a decrement, both completing the cycle at `start`. -/
def Obligations.FullTableMovesOnlyOnACompletedCycle : Prop :=
  (∀ (ds : DecodeState) (e : EdgeEvent),
    ((qsm .full ds e.code).2 = some .increment ↔ ds = 3 ∧ e = .bFall) ∧
    ((qsm .full ds e.code).2 = some .decrement ↔ ds = 6 ∧ e = .aFall) ∧
    ((qsm .full ds e.code).2 ≠ some .none → (qsm .full ds e.code).1 = 0)) ∧
  (∀ (e : EdgeEvent) (s t : State), EdgeEnabled s → s.mode = .full → exec e.instr s = .next t →
    t.live ≠ s.live → t.ds = 0 ∧ ((s.ds = 3 ∧ e = .bFall) ∨ (s.ds = 6 ∧ e = .aFall)))

/-- R123, R135, R145, R146: no entry has the reserved delta, a named state is followed by a named
state, and a delta always leads to a rest state. -/
def Obligations.TablesStayNamedAndRestOnDelta : Prop :=
  ∀ (m : Mode) (ds : DecodeState) (e : EdgeEvent),
    (qsm m ds e.code).2 ≠ none ∧
    (namedState m ds = true → namedState m (qsm m ds e.code).1 = true) ∧
    ((qsm m ds e.code).2 ≠ some .none → restState m (qsm m ds e.code).1 = true)

/-! ### The edge operations -/

/-- R165: `onEdge(A_FALL)` when enabled, in every decode state of both tables (the entries are
decisions D1 and D2). Nothing but `ds` changes, except in the two cases that decrement. -/
def Obligations.OnEdgeAFallResult : Prop :=
  ∀ s : State, EdgeEnabled s →
    exec .onEdgeAFall s = .next
      (if (s.mode = .full ∧ s.ds = 6) ∨ (s.mode = .half ∧ s.ds = 5) then afterDecrement s 0
       else { s with ds := column [0, 0, 3, 0, 0, 4, 0, 0] [0, 0, 2, 7, 0, 0, 6, 6] s })

/-- R166: `onEdge(A_RISE)` when enabled, in every decode state of both tables (decisions D1, D2).
Nothing but `ds` changes, except in the one case that decrements. -/
def Obligations.OnEdgeARiseResult : Prop :=
  ∀ s : State, EdgeEnabled s →
    exec .onEdgeARise s = .next
      (if s.mode = .half ∧ s.ds = 2 then afterDecrement s 7
       else { s with ds := column [1, 0, 0, 2, 5, 0, 0, 0] [1, 1, 7, 7, 0, 5, 7, 7] s })

/-- R167: `onEdge(B_FALL)` when enabled, in every decode state of both tables (decisions D1, D2).
Nothing but `ds` changes, except in the two cases that increment. -/
def Obligations.OnEdgeBFallResult : Prop :=
  ∀ s : State, EdgeEnabled s →
    exec .onEdgeBFall s = .next
      (if (s.mode = .full ∧ s.ds = 3) ∨ (s.mode = .half ∧ s.ds = 6) then afterIncrement s 0
       else { s with ds := column [0, 0, 1, 0, 0, 6, 0, 0] [0, 1, 0, 7, 0, 5, 0, 5] s })

/-- R168: `onEdge(B_RISE)` when enabled, in every decode state of both tables (decisions D1, D2).
Nothing but `ds` changes, except in the one case that increments. -/
def Obligations.OnEdgeBRiseResult : Prop :=
  ∀ s : State, EdgeEnabled s →
    exec .onEdgeBRise s = .next
      (if s.mode = .half ∧ s.ds = 1 then afterIncrement s 7
       else { s with ds := column [4, 2, 0, 0, 0, 0, 5, 0] [2, 7, 2, 7, 0, 7, 6, 7] s })

/-- R161, R210 (decision D13, log 8): while delivery is masked the adapter holds the event behind
those it holds and nothing else changes; when the instance is not Active no edge can occur and there
is no step. -/
def Obligations.OnEdgeHeldOrRefusedWhenNotEnabled : Prop :=
  ∀ (e : EdgeEvent) (s : State), s.destroyed = false →
    (s.life = .active → s.ien = false → exec e.instr s = .next { s with held := s.held ++ [e] }) ∧
    (s.life ≠ .active → exec e.instr s = .refused .edgeWhileInactive)

/-- R171: an increment adds one below the upper bound and otherwise leaves the position; it stays
within the bounds and within any width the bounds fit, the largest value included. -/
def Obligations.IncrementSaturates : Prop :=
  ∀ (e : EdgeEvent) (s : State), EdgeEnabled s → deltaAt s e = some .increment →
    InBounds s.live.pos s.minValue s.maxValue →
    ∃ t, exec e.instr s = .next t ∧
      t.live.pos = (if s.live.pos < s.maxValue then s.live.pos + 1 else s.live.pos) ∧
      InBounds t.live.pos s.minValue s.maxValue ∧
      ∀ W : Nat, FitsWidth W s.minValue → FitsWidth W s.maxValue → FitsWidth W t.live.pos

/-- R172: a decrement subtracts one above the lower bound and otherwise leaves the position; it
stays within the bounds and within any width the bounds fit, the smallest value included. -/
def Obligations.DecrementSaturates : Prop :=
  ∀ (e : EdgeEvent) (s : State), EdgeEnabled s → deltaAt s e = some .decrement →
    InBounds s.live.pos s.minValue s.maxValue →
    ∃ t, exec e.instr s = .next t ∧
      t.live.pos = (if s.live.pos > s.minValue then s.live.pos - 1 else s.live.pos) ∧
      InBounds t.live.pos s.minValue s.maxValue ∧
      ∀ W : Nat, FitsWidth W s.minValue → FitsWidth W s.maxValue → FitsWidth W t.live.pos

/-- R173: at the bound the position stays, and the click flag, `changed` and the callback are
written and called exactly as elsewhere. -/
def Obligations.FlagsAreWrittenAtABound : Prop :=
  ∀ (e : EdgeEvent) (s : State), EdgeEnabled s →
    (deltaAt s e = some .increment → s.live.pos = s.maxValue →
      ∃ t, exec e.instr s = .next t ∧ t.live = ⟨s.maxValue, .upClick⟩ ∧ t.changed = true ∧
        t.calls = s.calls ++ (s.cb.toList.map fun g =>
          ⟨g.callback, Config.controllerHandle, ⟨s.maxValue, .upClick⟩, g.userContext⟩)) ∧
    (deltaAt s e = some .decrement → s.live.pos = s.minValue →
      ∃ t, exec e.instr s = .next t ∧ t.live = ⟨s.minValue, .downClick⟩ ∧ t.changed = true ∧
        t.calls = s.calls ++ (s.cb.toList.map fun g =>
          ⟨g.callback, Config.controllerHandle, ⟨s.minValue, .downClick⟩, g.userContext⟩))

/-- R174, R255: an operation calls the callback at most once; it does so exactly when it is an
`onEdge` that runs, meets a delta, and finds a callback registered; it passes the handle, the live
record as it stands afterwards, and the registered context, with `changed` set, a click pending and
`ds` at rest. -/
def Obligations.CallbackReportsEachDeltaOnce : Prop :=
  ∀ (i : Instr) (s t : State), exec i s = .next t →
    (∀ (e : EdgeEvent) (g : Registration), i.event? = some e → s.ien = true →
      deltaAt s e ≠ some .none → s.cb = some g →
      t.calls = s.calls ++ [⟨g.callback, Config.controllerHandle, t.live, g.userContext⟩] ∧
      t.changed = true ∧ t.live.click ≠ .noClick ∧ restState t.mode t.ds = true) ∧
    (i.event? = none ∨ s.ien = false ∨ s.cb = none ∨
      (∃ e, i.event? = some e ∧ deltaAt s e = some .none) → t.calls = s.calls)

/-- R132 with R170 (decision D1): a full clockwise cycle from `start` in full-pulse mode is one
increment and leaves `start`, whatever else the instance holds. -/
def Obligations.ClockwiseCycleIncrementsOnce : Prop :=
  ∀ s : State, EdgeEnabled s → s.mode = .full → s.ds = 0 →
    runProgram cwCycle s = .next (afterIncrement s 0)

/-- R133 with R170 (decision D1): a full counter-clockwise cycle is one decrement. -/
def Obligations.CounterClockwiseCycleDecrementsOnce : Prop :=
  ∀ s : State, EdgeEnabled s → s.mode = .full → s.ds = 0 →
    runProgram ccwCycle s = .next (afterDecrement s 0)

/-- R142, R143 with R170 (decision D2): in half-pulse mode one electrical cycle from `detent0` is
two increments, or two decrements, one at each detent. -/
def Obligations.HalfPulseCycleCountsTwice : Prop :=
  ∀ s : State, EdgeEnabled s → s.mode = .half → s.ds = 0 →
    runProgram cwCycle s = .next (afterIncrement (afterIncrement s 7) 0) ∧
    runProgram ccwCycle s = .next (afterDecrement (afterDecrement s 7) 0)

/-- R134, R175, V23, V31 (decision D1): a clockwise cycle followed by a counter-clockwise one brings
the position and the decode state back when the position is below the upper bound; at the bound it
ends one lower. One read afterwards is fresh and reports the second click only. -/
def Obligations.RoundTripRestoresThePosition : Prop :=
  ∀ s : State, EdgeEnabled s → s.mode = .full → s.ds = 0 → s.minValue < s.maxValue →
    InBounds s.live.pos s.minValue s.maxValue →
    ∃ t, runProgram (cwCycle ++ ccwCycle ++ [.readState]) s = .next t ∧ t.ds = 0 ∧
      t.live.pos = (if s.live.pos < s.maxValue then s.live.pos else s.maxValue - 1) ∧
      t.result = .read ⟨t.live.pos, .downClick⟩ true

/-- R136, R145 (decisions D1, D2): from a named state, a sequence of physically possible events of
any length runs to its end and keeps the believed levels equal to the actual ones. -/
def Obligations.BelievedLevelsFollowActualLevels : Prop :=
  ∀ (es : List EdgeEvent) (s : State) (p : Sample), EdgeEnabled s → namedState s.mode s.ds = true →
    believedSample s.mode s.ds = some p → physicallyPossible es p = true →
    ∃ t, runProgram (es.map EdgeEvent.instr) s = .next t ∧
      namedState t.mode t.ds = true ∧ believedSample t.mode t.ds = some (applyEvents es p)

/-! ### The application operations -/

/-- R185, R186 (decision D19 for the stored `NoClick`): `readState` when the instance admits it. -/
def Obligations.ReadStateResult : Prop :=
  ∀ s : State, AppAdmitted s →
    exec .readState s = .next
      (if s.changed = true then
        { s with localRec := s.live, changed := false, ien := true, result := .read s.live true }
       else
        { s with
          localRec := ⟨s.localRec.pos, .noClick⟩
          ien := true
          result := .read ⟨s.localRec.pos, .noClick⟩ false })

/-- R190 (decisions D16, D17): `setValueAndReadBoth` when the instance admits it. -/
def Obligations.SetValueResult : Prop :=
  ∀ (v : Int) (s : State), AppAdmitted s →
    let c := if v < s.minValue then s.minValue else if v > s.maxValue then s.maxValue else v
    let old : Record := if s.changed = true then s.live else ⟨s.localRec.pos, .noClick⟩
    exec (.setValueAndReadBoth v) s = .next
      { s with
        live := ⟨c, .noClick⟩
        localRec := ⟨c, .noClick⟩
        changed := false
        ien := true
        result := .both old ⟨c, .noClick⟩ }

/-- R195, R197 (decisions D16, D18): `reconfigureBounds` with valid bounds when the instance admits
it. -/
def Obligations.ReconfigureBoundsSucceeds : Prop :=
  ∀ (lo hi v : Int) (s : State), AppAdmitted s → lo < hi →
    let c := if v < lo then lo else if v > hi then hi else v
    let old : Record := if s.changed = true then s.live else ⟨s.localRec.pos, .noClick⟩
    exec (.reconfigureBounds lo hi v) s = .next
      { s with
        minValue := lo
        maxValue := hi
        live := ⟨c, .noClick⟩
        localRec := ⟨c, .noClick⟩
        changed := false
        ien := true
        result := .rebound old ⟨c, .noClick⟩ }

/-- R196: with invalid bounds `reconfigureBounds` reports failure and no register differs, a pending
click included; and it never installs bounds with `minValue >= maxValue`. -/
def Obligations.ReconfigureBoundsFailsWithoutSideEffects : Prop :=
  (∀ (lo hi v : Int) (s : State), AppAdmitted s → s.ien = true → hi ≤ lo →
    exec (.reconfigureBounds lo hi v) s = .next { s with result := .reboundFailed }) ∧
  (∀ (lo hi v : Int) (s t : State), exec (.reconfigureBounds lo hi v) s = .next t →
    (t.minValue = s.minValue ∧ t.maxValue = s.maxValue) ∨ t.minValue < t.maxValue)

/-- R191: the old position that the two resetting operations return is the live position as it was,
whether or not a click was pending. -/
def Obligations.OldPositionIsTheLivePosition : Prop :=
  ∀ (s t : State) (old new : Record), Inv s →
    (∀ v, exec (.setValueAndReadBoth v) s = .next t → t.result = .both old new →
      old.pos = s.live.pos) ∧
    (∀ lo hi v, exec (.reconfigureBounds lo hi v) s = .next t → t.result = .rebound old new →
      old.pos = s.live.pos)

/-- R183, R187 (decision D16): once an application operation has reported, no later one reports a
click until an `onEdge` has run, whatever other operations come between. -/
def Obligations.AClickIsReportedOnce : Prop :=
  ∀ (a b : Instr) (prog : List Instr) (s t u v : State),
    isAppOperation a = true → exec a s = .next t → t.result ≠ .reboundFailed →
    edgesOf prog = [] → runProgram prog t = .next u →
    isAppOperation b = true → exec b u = .next v → reportedClick v.result = .noClick

/-- R66, R187: a second read with no edge between is not fresh, reports no click, and repeats the
position. -/
def Obligations.SecondReadIsNotFresh : Prop :=
  ∀ s t : State, exec .readState s = .next t →
    ∃ u, exec .readState t = .next u ∧ u.result = .read ⟨t.localRec.pos, .noClick⟩ false

/-- R175, R187 (decisions D1, D2, D16): however many edges come between, one read reports the net
position and the click of the last detent, as fresh; if no edge made a movement it reports what it
would have reported without them. -/
def Obligations.OneReadReportsTheLastDetent : Prop :=
  ∀ (es : List EdgeEvent) (s : State), EdgeEnabled s →
    ∃ t, runProgram (es.map EdgeEvent.instr ++ [.readState]) s = .next t ∧
      t.result =
        (match (movements s.mode s.ds es).getLast? with
        | some d =>
            .read ⟨(movements s.mode s.ds es).foldl (moved s.minValue s.maxValue) s.live.pos,
              clickOf d⟩ true
        | none =>
            if s.changed = true then .read s.live true
            else .read ⟨s.localRec.pos, .noClick⟩ false)

/-- R210 (decision D10): the three application operations are refused while Unconfigured. -/
def Obligations.AppOperationsRefusedWhenUnconfigured : Prop :=
  ∀ (i : Instr) (s : State), isAppOperation i = true → s.destroyed = false →
    s.life = .unconfigured → exec i s = .refused .unconfigured

/-! ### The lifecycle operations -/

/-- R211, R212 (decisions D8, D9): `configure` in every lifecycle state, with valid and with invalid
bounds. Deactivating drops what the adapter holds (R227, decision D13). -/
def Obligations.ConfigureResult : Prop :=
  ∀ (lo hi v : Int) (m : Mode) (s : State), s.destroyed = false →
    let c := if v < lo then lo else if v > hi then hi else v
    exec (.configure lo hi v m) s = .next
      { s with
        life := .configured
        mode := m
        minValue := lo
        maxValue := hi
        ds := 0
        live := ⟨c, .noClick⟩
        localRec := ⟨c, .noClick⟩
        changed := false
        held := if s.life = .active then [] else s.held
        result := .ok (decide (lo < hi)) }

/-- R39: the values `configure` establishes, in every lifecycle state. -/
def Obligations.ConfigureEstablishesTheDataPath : Prop :=
  ∀ (lo hi v : Int) (m : Mode) (s : State), s.destroyed = false →
    ∃ t, exec (.configure lo hi v m) s = .next t ∧
      t.mode = m ∧ t.minValue = lo ∧ t.maxValue = hi ∧ t.ds = 0b000#3 ∧
      t.live = ⟨if v < lo then lo else if v > hi then hi else v, .noClick⟩ ∧
      t.localRec = t.live ∧ t.changed = false ∧ t.life = .configured ∧
      t.cb = s.cb ∧ t.ien = s.ien

/-- R215, R222 (decision D6 for the seed): `begin` from Configured with valid bounds and a willing
adapter seeds `ds` from the sample and activates; nothing else changes. -/
def Obligations.BeginSucceeds : Prop :=
  ∀ (p : Sample) (s : State), s.destroyed = false → s.life = .configured →
    s.minValue < s.maxValue →
    exec (.beginOp true p) s = .next
      { s with
        life := .active
        ds := (match s.mode with
          | .full => if p = 0 then 0 else if p = 1 then 1 else if p = 2 then 4 else 2
          | .half => if p = 0 then 0 else if p = 1 then 1 else if p = 2 then 2 else 7)
        result := .ok true }

/-- R216, R241: `begin` reports failure and changes no register when Unconfigured, when the bounds
are invalid, or when the adapter cannot establish delivery. -/
def Obligations.BeginFailsWithoutSideEffects : Prop :=
  ∀ (ok : Bool) (p : Sample) (s : State), s.destroyed = false →
    (s.life = .unconfigured ∨
      (s.life = .configured ∧ (s.maxValue ≤ s.minValue ∨ ok = false))) →
    exec (.beginOp ok p) s = .next { s with result := .ok false }

/-- R219 (decision D11): `begin` while Active has no meaning. -/
def Obligations.BeginRefusedWhileActive : Prop :=
  ∀ (ok : Bool) (p : Sample) (s : State), s.destroyed = false → s.life = .active →
    exec (.beginOp ok p) s = .refused .beginWhileActive

/-- R225, R226: `end`, in every lifecycle state: from Active to Configured and edge delivery is off;
no other register is written; a second `end` does nothing. Its encoding is the HOST selector 010.
What the adapter holds is left open here. -/
def Obligations.EndDeactivates : Prop :=
  (∀ s : State, s.destroyed = false →
    ∃ t, exec .endOp s = .next t ∧
      t = { s with
            life := if s.life = .active then .configured else s.life
            held := t.held
            result := .nothing } ∧
      (∀ e : EdgeEvent, exec e.instr t = .refused .edgeWhileInactive) ∧
      exec .endOp t = .next t) ∧
  (∀ W : Nat, encode W .endOp = (.host, [false, true, false]))

/-- R227 (decision D13): `end` drops the notifications the adapter was holding. -/
def Obligations.EndDropsHeldEdges : Prop :=
  ∀ s t : State, s.life = .active → exec .endOp s = .next t → t.held = []

/-- R220: `begin` after `end` keeps everything but `ds`, a pending click included; what the adapter
held at `end` is gone (R227, decision D13). -/
def Obligations.BeginAfterEndKeepsThePosition : Prop :=
  ∀ (p : Sample) (s : State), s.destroyed = false → s.life = .active → s.minValue < s.maxValue →
    ∃ t, runProgram [.endOp, .beginOp true p] s = .next t ∧
      t = { s with ds := t.ds, held := [], result := .ok true } ∧ t.ds = seed s.mode p

/-- R230 (decision D21): `attachCallback` in every lifecycle state; with no callback the context is
dropped too. -/
def Obligations.AttachCallbackResult : Prop :=
  ∀ (f : Option Token) (ctx : Token) (s : State), s.destroyed = false →
    exec (.attachCallback f ctx) s = .next
      { s with
        cb := (match f with
          | none => none
          | some c => some ⟨c, ctx⟩)
        ien := true
        result := .nothing }

/-! ### Rules over all operations -/

/-- R33: which operation may write which register. -/
def Obligations.OnlyTheListedOperationsWrite : Prop :=
  ∀ (i : Instr) (s t : State), exec i s = .next t →
    ((∀ lo hi v m, i ≠ .configure lo hi v m) →
      t.mode = s.mode ∧
      ((∀ ok p, i ≠ .beginOp ok p) →
        (i ≠ .endOp → t.life = s.life) ∧ (i.event? = none → t.ds = s.ds)) ∧
      ((∀ nlo nhi nv, i ≠ .reconfigureBounds nlo nhi nv) →
        t.minValue = s.minValue ∧ t.maxValue = s.maxValue ∧
        ((∀ nv, i ≠ .setValueAndReadBoth nv) →
          (i.event? = none → t.live = s.live) ∧
          (i ≠ .readState → t.localRec = s.localRec ∧
            (i.event? = none → t.changed = s.changed))))) ∧
    ((∀ f c, i ≠ .attachCallback f c) →
      t.cb = s.cb ∧ (isAppOperation i = false → t.ien = s.ien)) ∧
    (i.event? = none → t.calls = s.calls) ∧
    t.inbox = s.inbox ∧ t.destroyed = s.destroyed

/-- R21, R210: the only changes of the lifecycle state are `configure` to Configured, a successful
`begin` from Configured to Active, and `end` from Active to Configured; an `onEdge` runs, or is
held, only while Active. -/
def Obligations.LifecycleTransitions : Prop :=
  ∀ (i : Instr) (s t : State), exec i s = .next t →
    (t.life ≠ s.life →
      ((∃ lo hi v m, i = .configure lo hi v m) ∧ t.life = .configured) ∨
      ((∃ p, i = .beginOp true p) ∧ s.life = .configured ∧ t.life = .active ∧
        s.minValue < s.maxValue ∧ t.result = .ok true) ∨
      (i = .endOp ∧ s.life = .active ∧ t.life = .configured)) ∧
    (i.event? ≠ none → s.life = .active ∧ t.life = .active)

/-- R22: the mode does not change while the instance is Active. -/
def Obligations.ModeIsFixedWhileActive : Prop :=
  ∀ (i : Instr) (s t : State), exec i s = .next t → t.life = .active → t.mode = s.mode

/-- R27: `changed` is set by an `onEdge` exactly when the entry has a delta, cleared by `readState`,
`setValueAndReadBoth`, a successful `reconfigureBounds` and `configure`, and written by nothing
else. -/
def Obligations.ChangedFlagRule : Prop :=
  ∀ (i : Instr) (s t : State), exec i s = .next t →
    (∀ e, i.event? = some e → s.ien = true →
      t.changed = (if deltaAt s e = some .none then s.changed else true)) ∧
    (i = .readState ∨ (∃ v, i = .setValueAndReadBoth v) ∨
      (∃ lo hi v, i = .reconfigureBounds lo hi v ∧ lo < hi) ∨
      (∃ lo hi v m, i = .configure lo hi v m) → t.changed = false) ∧
    ((∃ e, i.event? = some e ∧ s.ien = false) ∨
      (∃ lo hi v, i = .reconfigureBounds lo hi v ∧ hi ≤ lo) ∨
      (∃ ok p, i = .beginOp ok p) ∨ i = .endOp ∨ (∃ f c, i = .attachCallback f c) →
      t.changed = s.changed)

/-- R251: from an instance that is not Active, which is what reset and every `end` leave, a program
that delivers an edge has run a successful `begin` before it. -/
def Obligations.NoEdgeWithoutASuccessfulBegin : Prop :=
  State.reset.life ≠ .active ∧
  (∀ s t : State, exec .endOp s = .next t → t.life ≠ .active) ∧
  ∀ (before after : List Instr) (e : EdgeEvent) (s t : State), s.life ≠ .active →
    runProgram (before ++ e.instr :: after) s = .next t →
    ∃ (p q : List Instr) (ok : Bool) (sample : Sample) (u v : State),
      before = p ++ .beginOp ok sample :: q ∧ runProgram p s = .next u ∧
      exec (.beginOp ok sample) u = .next v ∧ v.result = .ok true

/-- R38: no operation admitted while Unconfigured reads a register the spec leaves unspecified after
reset, so no program can tell which values they hold (log 2). -/
def Obligations.UnspecifiedRegistersAreNotRead : Prop :=
  ∀ (prog : List Instr) (s t : State), AgreeUnconfigured s t →
    SameAnswer (runProgram prog s) (runProgram prog t)

/-! ### The critical section and the order of the two contexts -/

/-- R70 (decision D27): in every run of the fine-grained system, while the application is inside a
critical section delivery is masked and no `onEdge` starts. -/
def Obligations.NoEdgeInsideACriticalSection : Prop :=
  ∀ (evs : List FineEvent) (s : State) (f : FineState),
    fineRun evs ⟨s, .idle, false⟩ = .next f →
    ((∃ i, f.app = .masked i) ∨ (∃ c, f.app = .captured c)) →
    f.core.ien = false ∧ f.inCallback = false ∧ fineStep .deliver f = .refused .notEnabled

/-- R78, R79, R249: every fine-grained run that ends with no operation in progress leaves exactly
what some total order of whole operations leaves, results and callback calls included. In that order
the application's operations stand as they were called, and the edges are those that were delivered,
in the order they arrived (what was held at the start coming first). What the adapter still holds at
the end is the only difference. -/
def Obligations.AtomicOperationsAreExact : Prop :=
  ∀ (evs : List FineEvent) (s : State) (f : FineState),
    fineRun evs ⟨s, .idle, false⟩ = .next f → f.app = .idle →
    ∃ prog : List Instr,
      runProgram prog { s with held := [] } = .next { f.core with held := [] } ∧
      hostOps prog = callsOf evs ∧
      (edgesOf prog).Sublist (s.held ++ arrivalsOf evs) ∧
      (edgesOf prog).length = deliveriesIn evs
end

