-- ==== Sys2Proof/Laws/Decode.lean ====
section
/-! SUPPORT. The bit-string helpers of the decoder and the encoder: each taker reads back what the
encoder wrote and leaves the rest. -/

namespace Sys2Proof

@[simp] theorem bitsOf_length (n v : Nat) : (bitsOf n v).length = n := by
  induction n generalizing v with
  | zero => rfl
  | succ n ih => simp [bitsOf, ih]

@[simp] theorem natOf_bitsOf (n v : Nat) : natOf (bitsOf n v) = v % 2 ^ n := by
  induction n generalizing v with
  | zero => simp [bitsOf, natOf, Nat.mod_one]
  | succ n ih =>
    have hbit : (v % 2 == 1).toNat = v % 2 := by
      rcases Nat.mod_two_eq_zero_or_one v with h | h <;> simp [h]
    rw [bitsOf, natOf, ih, hbit, Nat.pow_succ', Nat.mod_mul]

theorem bitsOf_natOf (bs : List Bool) : bitsOf bs.length (natOf bs) = bs := by
  induction bs with
  | nil => rfl
  | cons b bs ih =>
    have hdiv : (b.toNat + 2 * natOf bs) / 2 = natOf bs := by cases b <;> simp; omega
    have hmod : ((b.toNat + 2 * natOf bs) % 2 == 1) = b := by cases b <;> simp
    simp only [List.length_cons, natOf, bitsOf, hdiv, hmod, ih]

theorem natOf_lt (bs : List Bool) : natOf bs < 2 ^ bs.length := by
  rw [← bitsOf_natOf bs, natOf_bitsOf, bitsOf_length]
  exact Nat.mod_lt _ (Nat.two_pow_pos _)

/-- Taking `n` bits reads back the `n` bits that were written. -/
@[simp] theorem takeBits_bitsOf_append (n v : Nat) (rest : List Bool) :
    takeBits n (bitsOf n v ++ rest) = .ok (v % 2 ^ n, rest) := by
  simp [takeBits]

/-- Whatever `takeBits` answers is the front of the string, and it leaves the rest. -/
theorem takeBits_ok (n : Nat) (bs rest : List Bool) (v : Nat)
    (h : takeBits n bs = .ok (v, rest)) : bs = bitsOf n v ++ rest ∧ v < 2 ^ n := by
  unfold takeBits at h
  split at h
  · cases h
  · rename_i hlen
    have hlen' : (bs.take n).length = n := by simp; omega
    simp only [Except.ok.injEq, Prod.mk.injEq] at h
    obtain ⟨rfl, rfl⟩ := h
    refine ⟨?_, ?_⟩
    · conv_lhs => rw [← List.take_append_drop n bs]
      congr 1
      conv_lhs => rw [← bitsOf_natOf (bs.take n), hlen']
    · simpa only [hlen'] using natOf_lt (bs.take n)

@[simp] theorem finishDecode_nil (i : Instr) : finishDecode i [] = .ok i := rfl

/-- `finishDecode` accepts only when every bit has been used. -/
theorem finishDecode_ok (i j : Instr) (rest : List Bool) (h : finishDecode i rest = .ok j) :
    rest = [] ∧ i = j := by
  cases rest with
  | nil => exact ⟨rfl, by simpa [finishDecode] using h⟩
  | cons b bs => simp [finishDecode] at h

theorem two_pow_split {W : Nat} (hW : 0 < W) : (2 : Int) ^ W = 2 * 2 ^ (W - 1) := by
  obtain ⟨n, rfl⟩ : ∃ n, W = n + 1 := ⟨W - 1, by omega⟩
  rw [Nat.add_sub_cancel, pow_succ, mul_comm]

theorem truncateTo_lt (W : Nat) (v : Int) : truncateTo W v < 2 ^ W := by
  have hpos : (0 : Int) < 2 ^ W := by positivity
  have h := Int.emod_lt_of_pos v hpos
  have h0 := Int.emod_nonneg v (ne_of_gt hpos)
  unfold truncateTo
  zify
  rw [Int.toNat_of_nonneg h0]
  exact h

/-- Sign extension undoes truncation on every value that fits the width (rule R11). -/
theorem signExtend_truncateTo {W : Nat} (hW : 0 < W) {v : Int} (hv : FitsWidth W v) :
    signExtend W (truncateTo W v) = v := by
  obtain ⟨hlo, hhi⟩ := hv
  have hsplit := two_pow_split hW
  have hpos : (0 : Int) < 2 ^ (W - 1) := by positivity
  have hcast : ((2 ^ (W - 1) : Nat) : Int) = 2 ^ (W - 1) := by push_cast; rfl
  unfold signExtend truncateTo
  by_cases hneg : v < 0
  · have hmod : v % 2 ^ W = v + 2 ^ W := by
      rw [← Int.add_emod_right, Int.emod_eq_of_lt] <;> omega
    rw [hmod]
    have : ¬ (v + 2 ^ W).toNat < 2 ^ (W - 1) := by omega
    rw [if_neg this, Int.toNat_of_nonneg (by omega)]
    omega
  · have hmod : v % 2 ^ W = v := Int.emod_eq_of_lt (by omega) (by omega)
    rw [hmod, if_pos (by omega)]
    omega

/-- A sign-extended `W`-bit number fits the width (rule R11). -/
theorem signExtend_fits {W n : Nat} (hW : 0 < W) (hn : n < 2 ^ W) : FitsWidth W (signExtend W n) := by
  have hsplit := two_pow_split hW
  have hcast : ((2 ^ (W - 1) : Nat) : Int) = 2 ^ (W - 1) := by push_cast; rfl
  have hn' : (n : Int) < 2 ^ W := by exact_mod_cast hn
  have hpos : (0 : Int) < 2 ^ (W - 1) := by positivity
  unfold signExtend
  split <;> constructor <;> omega

/-- Truncation undoes sign extension on every `W`-bit number. -/
theorem truncateTo_signExtend {W n : Nat} (hW : 0 < W) (hn : n < 2 ^ W) :
    truncateTo W (signExtend W n) = n := by
  have hsplit := two_pow_split hW
  have hcast : ((2 ^ (W - 1) : Nat) : Int) = 2 ^ (W - 1) := by push_cast; rfl
  have hn' : (n : Int) < 2 ^ W := by exact_mod_cast hn
  have hpos : (0 : Int) < 2 ^ (W - 1) := by positivity
  unfold truncateTo signExtend
  split
  · rw [Int.emod_eq_of_lt (by omega) hn']
    omega
  · rw [Int.sub_emod_right, Int.emod_eq_of_lt (by omega) hn']
    omega

/-- Taking a position operand reads back the position that was written (rule R11). -/
theorem takePosition_encodePosition_append {W : Nat} (hW : 0 < W) {v : Int} (hv : FitsWidth W v)
    (rest : List Bool) : takePosition W (encodePosition W v ++ rest) = .ok (v, rest) := by
  simp only [takePosition, encodePosition, takeBits_bitsOf_append, Except.map,
    Nat.mod_eq_of_lt (truncateTo_lt W v), signExtend_truncateTo hW hv]

/-- Whatever `takePosition` answers fits the width and is what the encoder writes for it. -/
theorem takePosition_ok {W : Nat} (hW : 0 < W) (bs rest : List Bool) (v : Int)
    (h : takePosition W bs = .ok (v, rest)) : bs = encodePosition W v ++ rest ∧ FitsWidth W v := by
  unfold takePosition at h
  cases ht : takeBits W bs with
  | error e => rw [ht] at h; cases h
  | ok r =>
    rw [ht] at h
    simp only [Except.map, Except.ok.injEq, Prod.mk.injEq] at h
    obtain ⟨hv, hr⟩ := h
    obtain ⟨hbs, hlt⟩ := takeBits_ok W bs r.2 r.1 ht
    subst hr hv
    exact ⟨by rw [encodePosition, truncateTo_signExtend hW hlt]; exact hbs, signExtend_fits hW hlt⟩

@[simp] theorem EdgeEvent.instr_event? (e : EdgeEvent) : e.instr.event? = some e := by
  cases e <;> rfl

theorem EdgeEvent.ofBits_code (e : EdgeEvent) : EdgeEvent.ofBits e.code.toNat = e := by
  cases e <;> rfl

theorem Mode.ofBits_code (m : Mode) : Mode.ofBits m.code.toNat = m := by
  cases m <;> rfl

@[simp] theorem Click.ofCode_code (c : Click) : Click.ofCode c.code = some c := by
  cases c <;> rfl

@[simp] theorem Delta.ofCode_code (d : Delta) : Delta.ofCode d.code = some d := by
  cases d <;> rfl

@[simp] theorem Life.ofCode_code (l : Life) : Life.ofCode l.code = some l := by
  cases l <;> rfl

end Sys2Proof
end

