-- ==== Sys2Proof/Laws/State.lean ====
section
/-! SUPPORT. What each named register update leaves in each field of State: one lemma for each
field of each update, so that no proof unfolds a record update. -/

namespace Sys2Proof.Machine

variable (s : State)

/-! ### interruptOff -/

@[simp] theorem interruptOff_life : s.interruptOff.life = s.life := rfl
@[simp] theorem interruptOff_mode : s.interruptOff.mode = s.mode := rfl
@[simp] theorem interruptOff_minValue : s.interruptOff.minValue = s.minValue := rfl
@[simp] theorem interruptOff_maxValue : s.interruptOff.maxValue = s.maxValue := rfl
@[simp] theorem interruptOff_ds : s.interruptOff.ds = s.ds := rfl
@[simp] theorem interruptOff_live : s.interruptOff.live = s.live := rfl
@[simp] theorem interruptOff_localRec : s.interruptOff.localRec = s.localRec := rfl
@[simp] theorem interruptOff_changed : s.interruptOff.changed = s.changed := rfl
@[simp] theorem interruptOff_ien : s.interruptOff.ien = false := rfl
@[simp] theorem interruptOff_cb : s.interruptOff.cb = s.cb := rfl
@[simp] theorem interruptOff_destroyed : s.interruptOff.destroyed = s.destroyed := rfl
@[simp] theorem interruptOff_held : s.interruptOff.held = s.held := rfl
@[simp] theorem interruptOff_inbox : s.interruptOff.inbox = s.inbox := rfl
@[simp] theorem interruptOff_result : s.interruptOff.result = s.result := rfl
@[simp] theorem interruptOff_calls : s.interruptOff.calls = s.calls := rfl

/-! ### interruptOn -/

@[simp] theorem interruptOn_life : s.interruptOn.life = s.life := rfl
@[simp] theorem interruptOn_mode : s.interruptOn.mode = s.mode := rfl
@[simp] theorem interruptOn_minValue : s.interruptOn.minValue = s.minValue := rfl
@[simp] theorem interruptOn_maxValue : s.interruptOn.maxValue = s.maxValue := rfl
@[simp] theorem interruptOn_ds : s.interruptOn.ds = s.ds := rfl
@[simp] theorem interruptOn_live : s.interruptOn.live = s.live := rfl
@[simp] theorem interruptOn_localRec : s.interruptOn.localRec = s.localRec := rfl
@[simp] theorem interruptOn_changed : s.interruptOn.changed = s.changed := rfl
@[simp] theorem interruptOn_ien : s.interruptOn.ien = true := rfl
@[simp] theorem interruptOn_cb : s.interruptOn.cb = s.cb := rfl
@[simp] theorem interruptOn_destroyed : s.interruptOn.destroyed = s.destroyed := rfl
@[simp] theorem interruptOn_held : s.interruptOn.held = s.held := rfl
@[simp] theorem interruptOn_inbox : s.interruptOn.inbox = s.inbox := rfl
@[simp] theorem interruptOn_result : s.interruptOn.result = s.result := rfl
@[simp] theorem interruptOn_calls : s.interruptOn.calls = s.calls := rfl

/-! ### setDs -/

@[simp] theorem setDs_life (v : DecodeState) : (s.setDs v).life = s.life := rfl
@[simp] theorem setDs_mode (v : DecodeState) : (s.setDs v).mode = s.mode := rfl
@[simp] theorem setDs_minValue (v : DecodeState) : (s.setDs v).minValue = s.minValue := rfl
@[simp] theorem setDs_maxValue (v : DecodeState) : (s.setDs v).maxValue = s.maxValue := rfl
@[simp] theorem setDs_ds (v : DecodeState) : (s.setDs v).ds = v := rfl
@[simp] theorem setDs_live (v : DecodeState) : (s.setDs v).live = s.live := rfl
@[simp] theorem setDs_localRec (v : DecodeState) : (s.setDs v).localRec = s.localRec := rfl
@[simp] theorem setDs_changed (v : DecodeState) : (s.setDs v).changed = s.changed := rfl
@[simp] theorem setDs_ien (v : DecodeState) : (s.setDs v).ien = s.ien := rfl
@[simp] theorem setDs_cb (v : DecodeState) : (s.setDs v).cb = s.cb := rfl
@[simp] theorem setDs_destroyed (v : DecodeState) : (s.setDs v).destroyed = s.destroyed := rfl
@[simp] theorem setDs_held (v : DecodeState) : (s.setDs v).held = s.held := rfl
@[simp] theorem setDs_inbox (v : DecodeState) : (s.setDs v).inbox = s.inbox := rfl
@[simp] theorem setDs_result (v : DecodeState) : (s.setDs v).result = s.result := rfl
@[simp] theorem setDs_calls (v : DecodeState) : (s.setDs v).calls = s.calls := rfl

/-! ### writeDelta -/

@[simp] theorem writeDelta_life (p : Int) (c : Click) : (s.writeDelta p c).life = s.life := rfl
@[simp] theorem writeDelta_mode (p : Int) (c : Click) : (s.writeDelta p c).mode = s.mode := rfl
@[simp] theorem writeDelta_minValue (p : Int) (c : Click) : (s.writeDelta p c).minValue = s.minValue := rfl
@[simp] theorem writeDelta_maxValue (p : Int) (c : Click) : (s.writeDelta p c).maxValue = s.maxValue := rfl
@[simp] theorem writeDelta_ds (p : Int) (c : Click) : (s.writeDelta p c).ds = s.ds := rfl
@[simp] theorem writeDelta_live (p : Int) (c : Click) : (s.writeDelta p c).live = ⟨p, c⟩ := rfl
@[simp] theorem writeDelta_localRec (p : Int) (c : Click) : (s.writeDelta p c).localRec = s.localRec := rfl
@[simp] theorem writeDelta_changed (p : Int) (c : Click) : (s.writeDelta p c).changed = true := rfl
@[simp] theorem writeDelta_ien (p : Int) (c : Click) : (s.writeDelta p c).ien = s.ien := rfl
@[simp] theorem writeDelta_cb (p : Int) (c : Click) : (s.writeDelta p c).cb = s.cb := rfl
@[simp] theorem writeDelta_destroyed (p : Int) (c : Click) : (s.writeDelta p c).destroyed = s.destroyed := rfl
@[simp] theorem writeDelta_held (p : Int) (c : Click) : (s.writeDelta p c).held = s.held := rfl
@[simp] theorem writeDelta_inbox (p : Int) (c : Click) : (s.writeDelta p c).inbox = s.inbox := rfl
@[simp] theorem writeDelta_result (p : Int) (c : Click) : (s.writeDelta p c).result = s.result := rfl
@[simp] theorem writeDelta_calls (p : Int) (c : Click) : (s.writeDelta p c).calls = s.calls := rfl

/-! ### install -/

@[simp] theorem install_life (v : Int) : (s.install v).life = s.life := rfl
@[simp] theorem install_mode (v : Int) : (s.install v).mode = s.mode := rfl
@[simp] theorem install_minValue (v : Int) : (s.install v).minValue = s.minValue := rfl
@[simp] theorem install_maxValue (v : Int) : (s.install v).maxValue = s.maxValue := rfl
@[simp] theorem install_ds (v : Int) : (s.install v).ds = s.ds := rfl
@[simp] theorem install_live (v : Int) : (s.install v).live = ⟨v, .noClick⟩ := rfl
@[simp] theorem install_localRec (v : Int) : (s.install v).localRec = ⟨v, .noClick⟩ := rfl
@[simp] theorem install_changed (v : Int) : (s.install v).changed = false := rfl
@[simp] theorem install_ien (v : Int) : (s.install v).ien = s.ien := rfl
@[simp] theorem install_cb (v : Int) : (s.install v).cb = s.cb := rfl
@[simp] theorem install_destroyed (v : Int) : (s.install v).destroyed = s.destroyed := rfl
@[simp] theorem install_held (v : Int) : (s.install v).held = s.held := rfl
@[simp] theorem install_inbox (v : Int) : (s.install v).inbox = s.inbox := rfl
@[simp] theorem install_result (v : Int) : (s.install v).result = s.result := rfl
@[simp] theorem install_calls (v : Int) : (s.install v).calls = s.calls := rfl

/-! ### setBounds -/

@[simp] theorem setBounds_life (lo hi : Int) : (s.setBounds lo hi).life = s.life := rfl
@[simp] theorem setBounds_mode (lo hi : Int) : (s.setBounds lo hi).mode = s.mode := rfl
@[simp] theorem setBounds_minValue (lo hi : Int) : (s.setBounds lo hi).minValue = lo := rfl
@[simp] theorem setBounds_maxValue (lo hi : Int) : (s.setBounds lo hi).maxValue = hi := rfl
@[simp] theorem setBounds_ds (lo hi : Int) : (s.setBounds lo hi).ds = s.ds := rfl
@[simp] theorem setBounds_live (lo hi : Int) : (s.setBounds lo hi).live = s.live := rfl
@[simp] theorem setBounds_localRec (lo hi : Int) : (s.setBounds lo hi).localRec = s.localRec := rfl
@[simp] theorem setBounds_changed (lo hi : Int) : (s.setBounds lo hi).changed = s.changed := rfl
@[simp] theorem setBounds_ien (lo hi : Int) : (s.setBounds lo hi).ien = s.ien := rfl
@[simp] theorem setBounds_cb (lo hi : Int) : (s.setBounds lo hi).cb = s.cb := rfl
@[simp] theorem setBounds_destroyed (lo hi : Int) : (s.setBounds lo hi).destroyed = s.destroyed := rfl
@[simp] theorem setBounds_held (lo hi : Int) : (s.setBounds lo hi).held = s.held := rfl
@[simp] theorem setBounds_inbox (lo hi : Int) : (s.setBounds lo hi).inbox = s.inbox := rfl
@[simp] theorem setBounds_result (lo hi : Int) : (s.setBounds lo hi).result = s.result := rfl
@[simp] theorem setBounds_calls (lo hi : Int) : (s.setBounds lo hi).calls = s.calls := rfl

/-! ### setMode -/

@[simp] theorem setMode_life (m : Mode) : (s.setMode m).life = s.life := rfl
@[simp] theorem setMode_mode (m : Mode) : (s.setMode m).mode = m := rfl
@[simp] theorem setMode_minValue (m : Mode) : (s.setMode m).minValue = s.minValue := rfl
@[simp] theorem setMode_maxValue (m : Mode) : (s.setMode m).maxValue = s.maxValue := rfl
@[simp] theorem setMode_ds (m : Mode) : (s.setMode m).ds = s.ds := rfl
@[simp] theorem setMode_live (m : Mode) : (s.setMode m).live = s.live := rfl
@[simp] theorem setMode_localRec (m : Mode) : (s.setMode m).localRec = s.localRec := rfl
@[simp] theorem setMode_changed (m : Mode) : (s.setMode m).changed = s.changed := rfl
@[simp] theorem setMode_ien (m : Mode) : (s.setMode m).ien = s.ien := rfl
@[simp] theorem setMode_cb (m : Mode) : (s.setMode m).cb = s.cb := rfl
@[simp] theorem setMode_destroyed (m : Mode) : (s.setMode m).destroyed = s.destroyed := rfl
@[simp] theorem setMode_held (m : Mode) : (s.setMode m).held = s.held := rfl
@[simp] theorem setMode_inbox (m : Mode) : (s.setMode m).inbox = s.inbox := rfl
@[simp] theorem setMode_result (m : Mode) : (s.setMode m).result = s.result := rfl
@[simp] theorem setMode_calls (m : Mode) : (s.setMode m).calls = s.calls := rfl

/-! ### setLife -/

@[simp] theorem setLife_life (l : Life) : (s.setLife l).life = l := rfl
@[simp] theorem setLife_mode (l : Life) : (s.setLife l).mode = s.mode := rfl
@[simp] theorem setLife_minValue (l : Life) : (s.setLife l).minValue = s.minValue := rfl
@[simp] theorem setLife_maxValue (l : Life) : (s.setLife l).maxValue = s.maxValue := rfl
@[simp] theorem setLife_ds (l : Life) : (s.setLife l).ds = s.ds := rfl
@[simp] theorem setLife_live (l : Life) : (s.setLife l).live = s.live := rfl
@[simp] theorem setLife_localRec (l : Life) : (s.setLife l).localRec = s.localRec := rfl
@[simp] theorem setLife_changed (l : Life) : (s.setLife l).changed = s.changed := rfl
@[simp] theorem setLife_ien (l : Life) : (s.setLife l).ien = s.ien := rfl
@[simp] theorem setLife_cb (l : Life) : (s.setLife l).cb = s.cb := rfl
@[simp] theorem setLife_destroyed (l : Life) : (s.setLife l).destroyed = s.destroyed := rfl
@[simp] theorem setLife_held (l : Life) : (s.setLife l).held = s.held := rfl
@[simp] theorem setLife_inbox (l : Life) : (s.setLife l).inbox = s.inbox := rfl
@[simp] theorem setLife_result (l : Life) : (s.setLife l).result = s.result := rfl
@[simp] theorem setLife_calls (l : Life) : (s.setLife l).calls = s.calls := rfl

/-! ### copyLive -/

@[simp] theorem copyLive_life : s.copyLive.life = s.life := rfl
@[simp] theorem copyLive_mode : s.copyLive.mode = s.mode := rfl
@[simp] theorem copyLive_minValue : s.copyLive.minValue = s.minValue := rfl
@[simp] theorem copyLive_maxValue : s.copyLive.maxValue = s.maxValue := rfl
@[simp] theorem copyLive_ds : s.copyLive.ds = s.ds := rfl
@[simp] theorem copyLive_live : s.copyLive.live = s.live := rfl
@[simp] theorem copyLive_localRec : s.copyLive.localRec = s.live := rfl
@[simp] theorem copyLive_changed : s.copyLive.changed = false := rfl
@[simp] theorem copyLive_ien : s.copyLive.ien = s.ien := rfl
@[simp] theorem copyLive_cb : s.copyLive.cb = s.cb := rfl
@[simp] theorem copyLive_destroyed : s.copyLive.destroyed = s.destroyed := rfl
@[simp] theorem copyLive_held : s.copyLive.held = s.held := rfl
@[simp] theorem copyLive_inbox : s.copyLive.inbox = s.inbox := rfl
@[simp] theorem copyLive_result : s.copyLive.result = s.result := rfl
@[simp] theorem copyLive_calls : s.copyLive.calls = s.calls := rfl

/-! ### clearLocalClick -/

@[simp] theorem clearLocalClick_life : s.clearLocalClick.life = s.life := rfl
@[simp] theorem clearLocalClick_mode : s.clearLocalClick.mode = s.mode := rfl
@[simp] theorem clearLocalClick_minValue : s.clearLocalClick.minValue = s.minValue := rfl
@[simp] theorem clearLocalClick_maxValue : s.clearLocalClick.maxValue = s.maxValue := rfl
@[simp] theorem clearLocalClick_ds : s.clearLocalClick.ds = s.ds := rfl
@[simp] theorem clearLocalClick_live : s.clearLocalClick.live = s.live := rfl
@[simp] theorem clearLocalClick_localRec : s.clearLocalClick.localRec = ⟨s.localRec.pos, .noClick⟩ := rfl
@[simp] theorem clearLocalClick_changed : s.clearLocalClick.changed = s.changed := rfl
@[simp] theorem clearLocalClick_ien : s.clearLocalClick.ien = s.ien := rfl
@[simp] theorem clearLocalClick_cb : s.clearLocalClick.cb = s.cb := rfl
@[simp] theorem clearLocalClick_destroyed : s.clearLocalClick.destroyed = s.destroyed := rfl
@[simp] theorem clearLocalClick_held : s.clearLocalClick.held = s.held := rfl
@[simp] theorem clearLocalClick_inbox : s.clearLocalClick.inbox = s.inbox := rfl
@[simp] theorem clearLocalClick_result : s.clearLocalClick.result = s.result := rfl
@[simp] theorem clearLocalClick_calls : s.clearLocalClick.calls = s.calls := rfl

/-! ### setCallback -/

@[simp] theorem setCallback_life (f : Option Token) (ctx : Token) : (s.setCallback f ctx).life = s.life := rfl
@[simp] theorem setCallback_mode (f : Option Token) (ctx : Token) : (s.setCallback f ctx).mode = s.mode := rfl
@[simp] theorem setCallback_minValue (f : Option Token) (ctx : Token) : (s.setCallback f ctx).minValue = s.minValue := rfl
@[simp] theorem setCallback_maxValue (f : Option Token) (ctx : Token) : (s.setCallback f ctx).maxValue = s.maxValue := rfl
@[simp] theorem setCallback_ds (f : Option Token) (ctx : Token) : (s.setCallback f ctx).ds = s.ds := rfl
@[simp] theorem setCallback_live (f : Option Token) (ctx : Token) : (s.setCallback f ctx).live = s.live := rfl
@[simp] theorem setCallback_localRec (f : Option Token) (ctx : Token) : (s.setCallback f ctx).localRec = s.localRec := rfl
@[simp] theorem setCallback_changed (f : Option Token) (ctx : Token) : (s.setCallback f ctx).changed = s.changed := rfl
@[simp] theorem setCallback_ien (f : Option Token) (ctx : Token) : (s.setCallback f ctx).ien = s.ien := rfl
@[simp] theorem setCallback_cb (f : Option Token) (ctx : Token) : (s.setCallback f ctx).cb = f.map fun c => ⟨c, ctx⟩ := rfl
@[simp] theorem setCallback_destroyed (f : Option Token) (ctx : Token) : (s.setCallback f ctx).destroyed = s.destroyed := rfl
@[simp] theorem setCallback_held (f : Option Token) (ctx : Token) : (s.setCallback f ctx).held = s.held := rfl
@[simp] theorem setCallback_inbox (f : Option Token) (ctx : Token) : (s.setCallback f ctx).inbox = s.inbox := rfl
@[simp] theorem setCallback_result (f : Option Token) (ctx : Token) : (s.setCallback f ctx).result = s.result := rfl
@[simp] theorem setCallback_calls (f : Option Token) (ctx : Token) : (s.setCallback f ctx).calls = s.calls := rfl

/-! ### returning -/

@[simp] theorem returning_life (r : Result) : (s.returning r).life = s.life := rfl
@[simp] theorem returning_mode (r : Result) : (s.returning r).mode = s.mode := rfl
@[simp] theorem returning_minValue (r : Result) : (s.returning r).minValue = s.minValue := rfl
@[simp] theorem returning_maxValue (r : Result) : (s.returning r).maxValue = s.maxValue := rfl
@[simp] theorem returning_ds (r : Result) : (s.returning r).ds = s.ds := rfl
@[simp] theorem returning_live (r : Result) : (s.returning r).live = s.live := rfl
@[simp] theorem returning_localRec (r : Result) : (s.returning r).localRec = s.localRec := rfl
@[simp] theorem returning_changed (r : Result) : (s.returning r).changed = s.changed := rfl
@[simp] theorem returning_ien (r : Result) : (s.returning r).ien = s.ien := rfl
@[simp] theorem returning_cb (r : Result) : (s.returning r).cb = s.cb := rfl
@[simp] theorem returning_destroyed (r : Result) : (s.returning r).destroyed = s.destroyed := rfl
@[simp] theorem returning_held (r : Result) : (s.returning r).held = s.held := rfl
@[simp] theorem returning_inbox (r : Result) : (s.returning r).inbox = s.inbox := rfl
@[simp] theorem returning_result (r : Result) : (s.returning r).result = r := rfl
@[simp] theorem returning_calls (r : Result) : (s.returning r).calls = s.calls := rfl

/-! ### hold -/

@[simp] theorem hold_life (e : EdgeEvent) : (s.hold e).life = s.life := rfl
@[simp] theorem hold_mode (e : EdgeEvent) : (s.hold e).mode = s.mode := rfl
@[simp] theorem hold_minValue (e : EdgeEvent) : (s.hold e).minValue = s.minValue := rfl
@[simp] theorem hold_maxValue (e : EdgeEvent) : (s.hold e).maxValue = s.maxValue := rfl
@[simp] theorem hold_ds (e : EdgeEvent) : (s.hold e).ds = s.ds := rfl
@[simp] theorem hold_live (e : EdgeEvent) : (s.hold e).live = s.live := rfl
@[simp] theorem hold_localRec (e : EdgeEvent) : (s.hold e).localRec = s.localRec := rfl
@[simp] theorem hold_changed (e : EdgeEvent) : (s.hold e).changed = s.changed := rfl
@[simp] theorem hold_ien (e : EdgeEvent) : (s.hold e).ien = s.ien := rfl
@[simp] theorem hold_cb (e : EdgeEvent) : (s.hold e).cb = s.cb := rfl
@[simp] theorem hold_destroyed (e : EdgeEvent) : (s.hold e).destroyed = s.destroyed := rfl
@[simp] theorem hold_held (e : EdgeEvent) : (s.hold e).held = s.held ++ [e] := rfl
@[simp] theorem hold_inbox (e : EdgeEvent) : (s.hold e).inbox = s.inbox := rfl
@[simp] theorem hold_result (e : EdgeEvent) : (s.hold e).result = s.result := rfl
@[simp] theorem hold_calls (e : EdgeEvent) : (s.hold e).calls = s.calls := rfl

/-! ### setHeld -/

@[simp] theorem setHeld_life (es : List EdgeEvent) : (s.setHeld es).life = s.life := rfl
@[simp] theorem setHeld_mode (es : List EdgeEvent) : (s.setHeld es).mode = s.mode := rfl
@[simp] theorem setHeld_minValue (es : List EdgeEvent) : (s.setHeld es).minValue = s.minValue := rfl
@[simp] theorem setHeld_maxValue (es : List EdgeEvent) : (s.setHeld es).maxValue = s.maxValue := rfl
@[simp] theorem setHeld_ds (es : List EdgeEvent) : (s.setHeld es).ds = s.ds := rfl
@[simp] theorem setHeld_live (es : List EdgeEvent) : (s.setHeld es).live = s.live := rfl
@[simp] theorem setHeld_localRec (es : List EdgeEvent) : (s.setHeld es).localRec = s.localRec := rfl
@[simp] theorem setHeld_changed (es : List EdgeEvent) : (s.setHeld es).changed = s.changed := rfl
@[simp] theorem setHeld_ien (es : List EdgeEvent) : (s.setHeld es).ien = s.ien := rfl
@[simp] theorem setHeld_cb (es : List EdgeEvent) : (s.setHeld es).cb = s.cb := rfl
@[simp] theorem setHeld_destroyed (es : List EdgeEvent) : (s.setHeld es).destroyed = s.destroyed := rfl
@[simp] theorem setHeld_held (es : List EdgeEvent) : (s.setHeld es).held = es := rfl
@[simp] theorem setHeld_inbox (es : List EdgeEvent) : (s.setHeld es).inbox = s.inbox := rfl
@[simp] theorem setHeld_result (es : List EdgeEvent) : (s.setHeld es).result = s.result := rfl
@[simp] theorem setHeld_calls (es : List EdgeEvent) : (s.setHeld es).calls = s.calls := rfl

/-! ### setInbox -/

@[simp] theorem setInbox_life (is : List Input) : (s.setInbox is).life = s.life := rfl
@[simp] theorem setInbox_mode (is : List Input) : (s.setInbox is).mode = s.mode := rfl
@[simp] theorem setInbox_minValue (is : List Input) : (s.setInbox is).minValue = s.minValue := rfl
@[simp] theorem setInbox_maxValue (is : List Input) : (s.setInbox is).maxValue = s.maxValue := rfl
@[simp] theorem setInbox_ds (is : List Input) : (s.setInbox is).ds = s.ds := rfl
@[simp] theorem setInbox_live (is : List Input) : (s.setInbox is).live = s.live := rfl
@[simp] theorem setInbox_localRec (is : List Input) : (s.setInbox is).localRec = s.localRec := rfl
@[simp] theorem setInbox_changed (is : List Input) : (s.setInbox is).changed = s.changed := rfl
@[simp] theorem setInbox_ien (is : List Input) : (s.setInbox is).ien = s.ien := rfl
@[simp] theorem setInbox_cb (is : List Input) : (s.setInbox is).cb = s.cb := rfl
@[simp] theorem setInbox_destroyed (is : List Input) : (s.setInbox is).destroyed = s.destroyed := rfl
@[simp] theorem setInbox_held (is : List Input) : (s.setInbox is).held = s.held := rfl
@[simp] theorem setInbox_inbox (is : List Input) : (s.setInbox is).inbox = is := rfl
@[simp] theorem setInbox_result (is : List Input) : (s.setInbox is).result = s.result := rfl
@[simp] theorem setInbox_calls (is : List Input) : (s.setInbox is).calls = s.calls := rfl

/-! ### callBack -/

@[simp] theorem callBack_life : s.callBack.life = s.life := rfl
@[simp] theorem callBack_mode : s.callBack.mode = s.mode := rfl
@[simp] theorem callBack_minValue : s.callBack.minValue = s.minValue := rfl
@[simp] theorem callBack_maxValue : s.callBack.maxValue = s.maxValue := rfl
@[simp] theorem callBack_ds : s.callBack.ds = s.ds := rfl
@[simp] theorem callBack_live : s.callBack.live = s.live := rfl
@[simp] theorem callBack_localRec : s.callBack.localRec = s.localRec := rfl
@[simp] theorem callBack_changed : s.callBack.changed = s.changed := rfl
@[simp] theorem callBack_ien : s.callBack.ien = s.ien := rfl
@[simp] theorem callBack_cb : s.callBack.cb = s.cb := rfl
@[simp] theorem callBack_destroyed : s.callBack.destroyed = s.destroyed := rfl
@[simp] theorem callBack_held : s.callBack.held = s.held := rfl
@[simp] theorem callBack_inbox : s.callBack.inbox = s.inbox := rfl
@[simp] theorem callBack_result : s.callBack.result = s.result := rfl
@[simp] theorem callBack_calls : s.callBack.calls = s.calls ++ callbackCall s := rfl

end Sys2Proof.Machine
end

