-- ==== Sys2Proof/Laws/Ops.lean ====
section
/-! SUPPORT. One lemma for each shared operation that says once what it can do; proofs about the
meanings cite these and do not unfold the operations. -/

namespace Sys2Proof.Machine

/-! ### Arithmetic -/

theorem clamp_mem {v lo hi : Int} (h : lo ≤ hi) : lo ≤ clamp v lo hi ∧ clamp v lo hi ≤ hi := by
  unfold clamp
  split <;> [skip; split] <;> omega

theorem clamp_of_mem {v lo hi : Int} (h : lo ≤ v ∧ v ≤ hi) : clamp v lo hi = v := by
  unfold clamp
  rw [if_neg (by omega), if_neg (by omega)]

/-- A clamped value is one of the three values given, also where the bounds are invalid
(rule R212). -/
theorem clamp_cases (v lo hi : Int) : clamp v lo hi = lo ∨ clamp v lo hi = hi ∨ clamp v lo hi = v := by
  unfold clamp
  split <;> [skip; split] <;> simp

theorem satinc_mem {v lo hi : Int} (h : lo ≤ v ∧ v ≤ hi) : lo ≤ satinc v hi ∧ satinc v hi ≤ hi := by
  unfold satinc
  split <;> omega

theorem satdec_mem {v lo hi : Int} (h : lo ≤ v ∧ v ≤ hi) : lo ≤ satdec v lo ∧ satdec v lo ≤ hi := by
  unfold satdec
  split <;> omega

/-! ### The tables -/

/-- Every entry holds one of the three deltas (rule R123). -/
theorem qsm_delta_isSome (m : Mode) (ds : DecodeState) (e : EventCode) :
    (qsm m ds e).2.isSome = true := by
  revert ds e
  cases m <;> decide

/-- The next state of a named state is a named state (rules R135, R145). -/
theorem qsm_next_named (m : Mode) (ds : DecodeState) (e : EventCode)
    (h : namedState m ds = true) : namedState m (qsm m ds e).1 = true := by
  revert ds e
  cases m <;> decide

/-- The start state and every seed are named states (rules R135, R145). -/
theorem startState_named (m : Mode) : namedState m (startState m) = true := by
  cases m <;> rfl

theorem seed_named (m : Mode) (p : Sample) : namedState m (seed m p) = true := by
  revert p
  cases m <;> decide

/-! ### Admission -/

theorem admitAlways_next {s t : State} {k : State → Answer} (h : admitAlways s k = .next t) :
    s.destroyed = false ∧ k s = .next t := by
  unfold admitAlways at h
  split at h
  · cases h
  · exact ⟨by simpa using ‹¬ s.destroyed = true›, h⟩

@[simp] theorem admitAlways_of_present {s : State} {k : State → Answer} (h : s.destroyed = false) :
    admitAlways s k = k s := by
  simp [admitAlways, h]

theorem admitConfigured_next {s t : State} {k : State → Answer}
    (h : admitConfigured s k = .next t) :
    s.destroyed = false ∧ s.life ≠ .unconfigured ∧ k s = .next t := by
  obtain ⟨hd, h⟩ := admitAlways_next h
  cases hl : s.life <;> simp only [hl, reduceCtorEq] at h
  · exact ⟨hd, by simp, h⟩
  · exact ⟨hd, by simp, h⟩

theorem admitConfigured_of_admitted {s : State} {k : State → Answer} (hd : s.destroyed = false)
    (hl : s.life ≠ .unconfigured) : admitConfigured s k = k s := by
  unfold admitConfigured
  rw [admitAlways_of_present hd]
  cases h : s.life <;> simp_all

/-! ### The edge handler -/

/-- What `onEdge` leaves behind (rule R170): the decode state always; the live record, `changed` and
the callback call when the entry has a delta; nothing else. -/
theorem onEdgeBody_next {e : EdgeEvent} {s t : State} (h : onEdgeBody e s = .next t) :
    ((qsm s.mode s.ds e.code).2 = some .none ∧ t = s.setDs (qsm s.mode s.ds e.code).1) ∨
    ((qsm s.mode s.ds e.code).2 = some .increment ∧
      t = ((s.setDs (qsm s.mode s.ds e.code).1).writeDelta
            (satinc s.live.pos s.maxValue) .upClick).callBack) ∨
    ((qsm s.mode s.ds e.code).2 = some .decrement ∧
      t = ((s.setDs (qsm s.mode s.ds e.code).1).writeDelta
            (satdec s.live.pos s.minValue) .downClick).callBack) := by
  unfold onEdgeBody at h
  rcases hd : (qsm s.mode s.ds e.code).2 with _ | d
  · simp [hd] at h
  · cases d <;> simp only [hd, clickOf, Host.Outcome.next.injEq] at h <;> simp [← h]

/-- `onEdge` always completes: no table entry has the reserved delta (rule R123). -/
theorem onEdgeBody_completes (e : EdgeEvent) (s : State) : ∃ t, onEdgeBody e s = .next t := by
  unfold onEdgeBody
  rcases hd : (qsm s.mode s.ds e.code).2 with _ | d
  · have := qsm_delta_isSome s.mode s.ds e.code
    simp [hd] at this
  · cases d <;> simp [hd]

/-- A notification either runs the handler or is held by the adapter (rule R161). -/
theorem edgeNotify_next {e : EdgeEvent} {s t : State} (h : edgeNotify e s = .next t) :
    s.destroyed = false ∧ s.life = .active ∧
      ((s.ien = true ∧ onEdgeBody e s = .next t) ∨ (s.ien = false ∧ t = s.hold e)) := by
  unfold edgeNotify at h
  split at h
  · cases h
  · cases hl : s.life <;> simp only [hl, reduceCtorEq] at h
    cases hi : s.ien <;> simp_all

theorem exec_instr (e : EdgeEvent) (s : State) : exec e.instr s = edgeNotify e s := by
  cases e <;> rfl

/-! ### The critical section -/

/-- A critical section ends unmasked (rule R75). -/
theorem afterCritical_ien (c : Capture) (s : State) : (afterCritical c s).ien = s.ien := by
  rcases c with (_ | _) | _ | (_ | _) | _ <;> rfl

/-- The steps after the critical section write the local click and the result, nothing else
(rule R73). -/
theorem afterCritical_frame (c : Capture) (s : State) :
    ∃ k r, afterCritical c s = { s with localRec := ⟨s.localRec.pos, k⟩, result := r } := by
  rcases c with (_ | _) | _ | (_ | _) | _ <;> exact ⟨_, _, rfl⟩

/-! ### Deactivation -/

/-- Deactivation touches the lifecycle state and what the adapter holds, nothing else
(rule R225). -/
theorem deactivate_eq (s : State) :
    s.deactivate = if s.life = .active then (s.setLife .configured).setHeld [] else s := by
  unfold State.deactivate
  cases s.life <;> simp

theorem deactivate_life_ne_active (s : State) : s.deactivate.life ≠ .active := by
  rw [deactivate_eq]
  split <;> simp_all

/-! ### Selection -/

/-- With nothing held, the next operation is the first of the inbox. -/
theorem select_of_held_nil {s : State} (h : s.held = []) : select s = selectInput s := by
  simp [select, h]

/-- A word of the operation table is what the next step takes. -/
theorem select_withFetchWord (s : State) (nbits w : Nat) :
    select (s.withFetchWord nbits w) = selectInput (s.withFetchWord nbits w) :=
  select_of_held_nil rfl

end Sys2Proof.Machine
end

