-- ==== Sys2Proof/Laws/Exec.lean ====
section
/-! SUPPORT. What each operation can do when it answers a next state: one inversion lemma for each,
and the closed form of each critical section. -/

namespace Sys2Proof.Machine

/-! ### Critical sections as one update -/

theorem criticalSection_read (s : State) :
    criticalSection readInside s =
      bif s.changed then
        { s with localRec := s.live, changed := false, ien := true, result := .read s.live true }
      else
        { s with
          localRec := ⟨s.localRec.pos, .noClick⟩
          ien := true
          result := .read ⟨s.localRec.pos, .noClick⟩ false } := by
  obtain ⟨life, mode, lo, hi, ds, live, loc, changed, ien, cb, d, held, inbox, res, calls⟩ := s
  cases changed <;> rfl

theorem criticalSection_setValue (v : Int) (s : State) :
    criticalSection (setValueInside v) s =
      { s with
        live := ⟨clamp v s.minValue s.maxValue, .noClick⟩
        localRec := ⟨clamp v s.minValue s.maxValue, .noClick⟩
        changed := false
        ien := true
        result := .both (snapshot s) ⟨clamp v s.minValue s.maxValue, .noClick⟩ } := rfl

theorem criticalSection_reconfigure {lo hi : Int} (h : lo < hi) (v : Int) (s : State) :
    criticalSection (reconfigureInside lo hi v) s =
      { s with
        minValue := lo
        maxValue := hi
        live := ⟨clamp v lo hi, .noClick⟩
        localRec := ⟨clamp v lo hi, .noClick⟩
        changed := false
        ien := true
        result := .rebound (snapshot s) ⟨clamp v lo hi, .noClick⟩ } := by
  rw [criticalSection, reconfigureInside, if_pos h]
  rfl

theorem criticalSection_reconfigure_fails {lo hi : Int} (h : ¬ lo < hi) (v : Int) (s : State) :
    criticalSection (reconfigureInside lo hi v) s =
      { s with ien := true, result := .reboundFailed } := by
  rw [criticalSection, reconfigureInside, if_neg h]
  rfl

theorem criticalSection_attach (f : Option Token) (ctx : Token) (s : State) :
    criticalSection (attachInside f ctx) s =
      { s with cb := f.map fun c => ⟨c, ctx⟩, ien := true, result := .nothing } := rfl

/-! ### Inversion, operation by operation -/

theorem instr_of_event? {i : Instr} {e : EdgeEvent} (h : i.event? = some e) : i = e.instr := by
  cases i <;> cases e <;> simp_all [Instr.event?, EdgeEvent.instr]

theorem exec_edge_next {i : Instr} {e : EdgeEvent} {s t : State} (he : i.event? = some e)
    (h : exec i s = .next t) :
    s.destroyed = false ∧ s.life = .active ∧
      ((s.ien = true ∧ onEdgeBody e s = .next t) ∨ (s.ien = false ∧ t = s.hold e)) := by
  rw [instr_of_event? he, exec_instr] at h
  exact edgeNotify_next h

theorem exec_configure_next {lo hi v : Int} {m : Mode} {s t : State}
    (h : exec (.configure lo hi v m) s = .next t) :
    s.destroyed = false ∧
      t = ((((((s.deactivate.setMode m).setBounds lo hi).setDs (startState m)).install
            (clamp v lo hi)).setLife .configured).returning (.ok (decide (lo < hi)))) := by
  simp only [exec, execConfigure] at h
  obtain ⟨hd, h⟩ := admitAlways_next h
  exact ⟨hd, (Host.Outcome.next.inj h).symm⟩

theorem exec_begin_next {ok : Bool} {p : Sample} {s t : State}
    (h : exec (.beginOp ok p) s = .next t) :
    s.destroyed = false ∧
      ((t = s.returning (.ok false) ∧ s.life ≠ .active) ∨
       (ok = true ∧ s.life = .configured ∧ s.minValue < s.maxValue ∧
        t = ((s.setDs (seed s.mode p)).setLife .active).returning (.ok true))) := by
  simp only [exec, execBegin] at h
  obtain ⟨hd, h⟩ := admitAlways_next h
  refine ⟨hd, ?_⟩
  cases hl : s.life <;> simp only [hl, reduceCtorEq] at h
  · exact .inl ⟨(Host.Outcome.next.inj h).symm, by simp⟩
  · split at h
    · split at h
      · exact .inr ⟨‹_›, rfl, ‹_›, (Host.Outcome.next.inj h).symm⟩
      · exact .inl ⟨(Host.Outcome.next.inj h).symm, by simp⟩
    · exact .inl ⟨(Host.Outcome.next.inj h).symm, by simp⟩

theorem exec_end_next {s t : State} (h : exec .endOp s = .next t) :
    s.destroyed = false ∧ t = s.deactivate.returning .nothing := by
  simp only [exec, execEnd] at h
  obtain ⟨hd, h⟩ := admitAlways_next h
  exact ⟨hd, (Host.Outcome.next.inj h).symm⟩

theorem exec_readState_next {s t : State} (h : exec .readState s = .next t) :
    s.destroyed = false ∧ s.life ≠ .unconfigured ∧ t = criticalSection readInside s := by
  simp only [exec, execReadState] at h
  obtain ⟨hd, hl, h⟩ := admitConfigured_next h
  exact ⟨hd, hl, (Host.Outcome.next.inj h).symm⟩

theorem exec_setValueAndReadBoth_next {v : Int} {s t : State}
    (h : exec (.setValueAndReadBoth v) s = .next t) :
    s.destroyed = false ∧ s.life ≠ .unconfigured ∧ t = criticalSection (setValueInside v) s := by
  simp only [exec, execSetValueAndReadBoth] at h
  obtain ⟨hd, hl, h⟩ := admitConfigured_next h
  exact ⟨hd, hl, (Host.Outcome.next.inj h).symm⟩

theorem exec_reconfigureBounds_next {lo hi v : Int} {s t : State}
    (h : exec (.reconfigureBounds lo hi v) s = .next t) :
    s.destroyed = false ∧ s.life ≠ .unconfigured ∧
      t = criticalSection (reconfigureInside lo hi v) s := by
  simp only [exec, execReconfigureBounds] at h
  obtain ⟨hd, hl, h⟩ := admitConfigured_next h
  exact ⟨hd, hl, (Host.Outcome.next.inj h).symm⟩

theorem exec_attachCallback_next {f : Option Token} {ctx : Token} {s t : State}
    (h : exec (.attachCallback f ctx) s = .next t) :
    s.destroyed = false ∧ t = criticalSection (attachInside f ctx) s := by
  simp only [exec, execAttachCallback] at h
  obtain ⟨hd, h⟩ := admitAlways_next h
  exact ⟨hd, (Host.Outcome.next.inj h).symm⟩

/-- No operation of the decoder faults (rules R14, R240): the fault type is empty. -/
theorem exec_ne_fault (i : Instr) (s : State) (r : Fault) : exec i s ≠ .fault r := nomatch r

/-! ### Programs -/

theorem runProgram_cons {i : Instr} {prog : List Instr} {s t : State} (h : exec i s = .next t) :
    runProgram (i :: prog) s = runProgram prog t := by
  simp [runProgram, h]

theorem runProgram_append {p q : List Instr} {s t : State} (h : runProgram p s = .next t) :
    runProgram (p ++ q) s = runProgram q t := by
  induction p generalizing s with
  | nil => cases h; rfl
  | cons i p ih =>
    simp only [runProgram, List.cons_append] at h ⊢
    split at h
    · exact ih h
    · cases h
    · cases h

/-- A program that runs to its end runs its first operation, then the rest. -/
theorem runProgram_cons_next {i : Instr} {prog : List Instr} {s t : State}
    (h : runProgram (i :: prog) s = .next t) :
    ∃ u, exec i s = .next u ∧ runProgram prog u = .next t := by
  simp only [runProgram] at h
  split at h
  · exact ⟨_, ‹_›, h⟩
  · cases h
  · cases h

end Sys2Proof.Machine
end

