-- ==== Sys2Proof/Laws/PerInstr.lean ====
section
/-! SUPPORT. A statement for every operation as syntax: its encoding has exactly the number of bits
its row gives it, so the selector or the event code alone determines the length (rule R104). -/

namespace Sys2Proof.Laws.EncodedLength

/-- At every width the encoding of `i` is as long as its row says (rule R104). -/
def Statement (i : Instr) : Prop :=
  ∀ W : Nat, (i.bits W).length = i.bitLength W

theorem onEdgeAFall : Statement .onEdgeAFall := fun _ => rfl

theorem onEdgeARise : Statement .onEdgeARise := fun _ => rfl

theorem onEdgeBFall : Statement .onEdgeBFall := fun _ => rfl

theorem onEdgeBRise : Statement .onEdgeBRise := fun _ => rfl

theorem configure (minValue maxValue initialValue : Int) (mode : Mode) :
    Statement (.configure minValue maxValue initialValue mode) := fun W => by
  simp [Instr.bits, Instr.bitLength, hostLength, encodePosition]
  omega

theorem beginOp (adapterOk : Bool) (sample : Sample) : Statement (.beginOp adapterOk sample) :=
  fun W => by simp [Instr.bits, Instr.bitLength, hostLength]

theorem endOp : Statement .endOp := fun _ => rfl

theorem readState : Statement .readState := fun _ => rfl

theorem setValueAndReadBoth (newValue : Int) : Statement (.setValueAndReadBoth newValue) :=
  fun W => by simp [Instr.bits, Instr.bitLength, hostLength, encodePosition]

theorem reconfigureBounds (newMin newMax newCurrent : Int) :
    Statement (.reconfigureBounds newMin newMax newCurrent) := fun W => by
  simp [Instr.bits, Instr.bitLength, hostLength, encodePosition]
  omega

theorem attachCallback (callback : Option Token) (userContext : Token) :
    Statement (.attachCallback callback userContext) := fun W => by
  cases callback <;> simp [Instr.bits, Instr.bitLength, hostLength, encodeCallback] <;> omega

end Sys2Proof.Laws.EncodedLength
end

