-- ==== Sys2Proof/Tests/Slice0.lean ====
section
/-! SUPPORT. Tests. Expected results come from the vectors V1 to V78 and the programs P1 to P5 of
`95_test_vectors.md`, or are worked out by hand from the rule named; then, for every obligation with
hypotheses, a concrete case that meets all of them (`witness_<Name>`). -/

open Sys2Proof Sys2Proof.Machine Sys2Proof.Claims

namespace Sys2Proof.Tests

/-! ### Helpers -/

/-- A full-pulse instance within -20..20 (the vectors' usual start). -/
def full (life : Life) (ds : DecodeState) (live loc : Record) (changed : Bool) : State :=
  { State.reset with
    life := life, mode := .full, minValue := -20, maxValue := 20, ds := ds, live := live
    localRec := loc, changed := changed }

/-- A half-pulse instance within the given bounds. -/
def half (lo hi : Int) (ds : DecodeState) (live loc : Record) (changed : Bool) : State :=
  { State.reset with
    life := .active, mode := .half, minValue := lo, maxValue := hi, ds := ds, live := live
    localRec := loc, changed := changed }

/-- An Active full-pulse instance at rest, position 0. -/
def rest : State := full .active 0 ⟨0, .noClick⟩ ⟨0, .noClick⟩ false

/-- A Configured full-pulse instance, position 0. -/
def ready : State := full .configured 0 ⟨0, .noClick⟩ ⟨0, .noClick⟩ false

/-- The callback of the vectors, `(f, ctx7)`. -/
def f7 : Option Registration := some ⟨0xF, 7⟩

/-- An Active full-pulse instance one fall of B before an increment at the upper bound, with a
callback. -/
def atTop : State := { full .active 3 ⟨20, .noClick⟩ ⟨20, .noClick⟩ false with cb := f7 }

/-- An Active full-pulse instance one fall of A before a decrement at the lower bound, with a
callback. -/
def atBottom : State := { full .active 6 ⟨-20, .noClick⟩ ⟨-20, .noClick⟩ false with cb := f7 }

/-- An Active instance with a pending click. -/
def clicked : State := full .active 0 ⟨1, .upClick⟩ ⟨0, .noClick⟩ true

/-- Some of a next state. -/
def after {α : Type} (f : State → α) : Answer → Option α
  | .next s => some (f s)
  | .fault _ => none
  | .refused _ => none

/-- The reason of a refusal. -/
def reason : Answer → Option Refusal
  | .next _ => none
  | .fault _ => none
  | .refused r => some r

/-! ### Well-formedness: an ill-formed term for each check (rule R11 at W = 16) -/

theorem test_configure_refuses_wide_minimum :
    (Instr.configure (-32769) 0 0 .full).wellFormed 16 = false := by decide
theorem test_configure_refuses_wide_maximum :
    (Instr.configure 0 32768 0 .full).wellFormed 16 = false := by decide
theorem test_configure_refuses_wide_initial :
    (Instr.configure 0 1 32768 .half).wellFormed 16 = false := by decide
theorem test_configure_accepts_extremes :
    (Instr.configure (-32768) 32767 0 .full).wellFormed 16 = true := by decide
theorem test_setValue_refuses_wide_value :
    (Instr.setValueAndReadBoth (-32769)).wellFormed 16 = false := by decide
theorem test_reconfigure_refuses_wide_minimum :
    (Instr.reconfigureBounds 32768 0 0).wellFormed 16 = false := by decide
theorem test_reconfigure_refuses_wide_maximum :
    (Instr.reconfigureBounds 0 (-32769) 0).wellFormed 16 = false := by decide
theorem test_reconfigure_refuses_wide_current :
    (Instr.reconfigureBounds 0 1 40000).wellFormed 16 = false := by decide
theorem test_wellFormed_follows_the_width :
    (Instr.setValueAndReadBoth 128).wellFormed 8 = false ∧
    (Instr.setValueAndReadBoth 127).wellFormed 8 = true := by decide

/-! ### Decoding: words written out from `30_encoding.md`, first bit first -/

theorem test_decode_onEdgeAFall : decode 16 .edge [false, false] = .ok .onEdgeAFall := by decide
theorem test_decode_onEdgeARise : decode 16 .edge [true, false] = .ok .onEdgeARise := by decide
theorem test_decode_onEdgeBFall : decode 16 .edge [false, true] = .ok .onEdgeBFall := by decide
theorem test_decode_onEdgeBRise : decode 16 .edge [true, true] = .ok .onEdgeBRise := by decide

/-- P1 line 1: `000`, `0xFFEC 0x0014 0x0000`, `0`. -/
theorem test_decode_configure :
    decode 16 .host
      ([false, false, false] ++
       [false, false, true, true, false, true, true, true,
        true, true, true, true, true, true, true, true] ++
       [false, false, true, false, true, false, false, false,
        false, false, false, false, false, false, false, false] ++
       [false, false, false, false, false, false, false, false,
        false, false, false, false, false, false, false, false] ++ [false])
      = .ok (.configure (-20) 20 0 .full) := by decide
/-- P3 line 1: `000`, `0x0000 0x0003 0x0002`, `1`. -/
theorem test_decode_configure_half :
    decode 16 .host (bitsOf 3 0 ++ bitsOf 16 0 ++ bitsOf 16 3 ++ bitsOf 16 2 ++ [true])
      = .ok (.configure 0 3 2 .half) := by decide
/-- P4 line 7: `001`, env `1 01`. -/
theorem test_decode_begin :
    decode 16 .host [true, false, false, true, true, false] = .ok (.beginOp true 0b01#2) := by decide
/-- P4 line 6: `001`, env `0 00`. -/
theorem test_decode_begin_without_adapter :
    decode 16 .host [true, false, false, false, false, false]
      = .ok (.beginOp false 0b00#2) := by decide
theorem test_decode_end : decode 16 .host [false, true, false] = .ok .endOp := by decide
theorem test_decode_readState : decode 16 .host [true, true, false] = .ok .readState := by decide
/-- P2 line 19: `100`, `0xFFFB`. -/
theorem test_decode_setValue :
    decode 16 .host
      ([false, false, true] ++
       [true, true, false, true, true, true, true, true,
        true, true, true, true, true, true, true, true])
      = .ok (.setValueAndReadBoth (-5)) := by decide
/-- P3 line 13: `101`, `0xFFFD 0x0003 0x0000`. -/
theorem test_decode_reconfigure :
    decode 16 .host (bitsOf 3 5 ++ bitsOf 16 0xFFFD ++ bitsOf 16 3 ++ bitsOf 16 0)
      = .ok (.reconfigureBounds (-3) 3 0) := by decide
/-- P2 line 1: `110`, callback present; the layout of the two tokens is the model's (log 3). -/
theorem test_decode_attach :
    decode 16 .host (bitsOf 3 6 ++ [true] ++ bitsOf 32 0xF ++ bitsOf 32 7)
      = .ok (.attachCallback (some 0xF) 7) := by decide
theorem test_decode_detach :
    decode 16 .host (bitsOf 3 6 ++ [false] ++ bitsOf 32 0 ++ bitsOf 32 7)
      = .ok (.attachCallback none 7) := by decide
/-- R105: selector 111 is reserved. -/
theorem test_decode_refuses_reserved_selector :
    decode 16 .host [true, true, true] = .error .reservedSelector := by decide
/-- R104: the selector fixes the length. -/
theorem test_decode_refuses_short_operand :
    decode 16 .host (bitsOf 3 4 ++ bitsOf 15 0) = .error .truncated := by decide
theorem test_decode_refuses_extra_bit :
    decode 16 .host [false, true, false, false] = .error .trailing := by decide
theorem test_decode_refuses_token_without_callback :
    decode 16 .host (bitsOf 3 6 ++ [false] ++ bitsOf 32 1 ++ bitsOf 32 7)
      = .error .noneWithToken := by decide
theorem test_record_refuses_reserved_click : Record.unpack 16 0x30001#18 = none := by decide
theorem test_life_refuses_reserved_code : Life.ofCode 0b11#2 = none := by decide

/-! ### The operation table's words (log 4) -/

theorem test_table_word_selectors :
    decodeTableWord 8 2 = some .endOp ∧ decodeTableWord 8 3 = some .readState ∧
    decodeTableWord 8 4 = some (.setValueAndReadBoth 0) ∧ decodeTableWord 8 7 = none := by decide
theorem test_table_word_edge : decodeTableWord 2 1 = some .onEdgeARise := by decide
/-- From reset `end` runs (rule R210) and `readState` is refused (V41). -/
theorem test_table_word_runs :
    after State.life (step (State.reset.withFetchWord 8 2)) = some .unconfigured ∧
    reason (step (State.reset.withFetchWord 8 3)) = some .unconfigured := by decide
/-- R212: zero operands are invalid bounds, stored all the same. -/
theorem test_table_word_configures :
    after State.result (step (State.reset.withFetchWord 8 0)) = some (.ok false) := by decide

/-! ### The tables (V5, V9, V12 to V16) -/

theorem test_qsm_full_completion : qsm .full 6 0b00#2 = (0, some .decrement) := by decide
theorem test_qsm_full_sentinel : qsm .full 7 0b01#2 = (0, some .none) := by decide
theorem test_qsm_half_crossings :
    qsm .half 1 0b11#2 = (7, some .increment) ∧ qsm .half 2 0b01#2 = (7, some .decrement) ∧
    qsm .half 6 0b10#2 = (0, some .increment) ∧ qsm .half 5 0b00#2 = (0, some .decrement) := by decide
theorem test_qsm_half_self_loop : qsm .half 1 0b10#2 = (1, some .none) := by decide
theorem test_table_address : tableAddr .full 6 0b00#2 = 0b011000#6 := by decide

/-! ### One operation each -/

/-- V27. -/
theorem test_onEdgeAFall_at_minimum :
    after (fun s => (s.ds, s.live, s.changed)) (exec .onEdgeAFall atBottom)
      = some (0, ⟨-20, .downClick⟩, true) := by decide
/-- V6. -/
theorem test_onEdgeAFall_glitch :
    after (fun s => (s.ds, s.changed))
      (exec .onEdgeAFall (full .active 1 ⟨0, .noClick⟩ ⟨0, .noClick⟩ false)) = some (0, false) := by
  decide
/-- V1. -/
theorem test_onEdgeARise_first_step :
    after (fun s => (s.ds, s.live)) (exec .onEdgeARise rest) = some (1, ⟨0, .noClick⟩) := by decide
/-- V36. -/
theorem test_onEdgeARise_when_configured :
    reason (exec .onEdgeARise ready) = some .edgeWhileInactive := by decide
/-- V26. -/
theorem test_onEdgeBFall_at_maximum :
    after (fun s => (s.ds, s.live, s.changed)) (exec .onEdgeBFall atTop)
      = some (0, ⟨20, .upClick⟩, true) := by decide
/-- P1 line 6 with the callback of V75: one call, with the live record after the delta. -/
theorem test_onEdgeBFall_calls_back :
    after (fun s => s.calls.map fun c => (c.callback, c.snapshot, c.userContext))
      (exec .onEdgeBFall { full .active 3 ⟨0, .noClick⟩ ⟨0, .noClick⟩ false with cb := f7 })
      = some [(0xF, ⟨1, .upClick⟩, 7)] := by decide
/-- V34. -/
theorem test_onEdgeBRise_largest_value :
    after (fun s => (s.ds, s.live))
      (exec .onEdgeBRise (half (-32768) 32767 1 ⟨32767, .noClick⟩ ⟨32767, .noClick⟩ false))
      = some (7, ⟨32767, .upClick⟩) := by decide
/-- P5: while delivery is masked the adapter holds the event. -/
theorem test_onEdgeBRise_masked :
    after (fun s => (s.held, s.ds)) (exec .onEdgeBRise { rest with ien := false })
      = some ([.bRise], 0) := by decide

/-- V37. -/
theorem test_readState_fresh :
    after (fun s => (s.result, s.changed)) (exec .readState clicked)
      = some (.read ⟨1, .upClick⟩ true, false) := by decide
/-- V38: the live click is not reported again. -/
theorem test_readState_again :
    after (fun s => (s.result, s.live.click))
      (exec .readState (full .active 0 ⟨1, .upClick⟩ ⟨1, .upClick⟩ false))
      = some (.read ⟨1, .noClick⟩ false, .upClick) := by decide

/-- V42. -/
theorem test_setValue_clamps_high :
    after (fun s => (s.result, s.changed))
      (exec (.setValueAndReadBoth 100) (full .active 0 ⟨3, .upClick⟩ ⟨2, .noClick⟩ true))
      = some (.both ⟨3, .upClick⟩ ⟨20, .noClick⟩, false) := by decide
/-- V43. -/
theorem test_setValue_without_pending_click :
    after (fun s => (s.result, s.live))
      (exec (.setValueAndReadBoth 0) (full .active 0 ⟨3, .upClick⟩ ⟨3, .upClick⟩ false))
      = some (.both ⟨3, .noClick⟩ ⟨0, .noClick⟩, ⟨0, .noClick⟩) := by decide

/-- V47. -/
theorem test_reconfigure_returns_pending_click :
    after (fun s => (s.result, s.minValue, s.maxValue)) (exec (.reconfigureBounds 0 50 25) clicked)
      = some (.rebound ⟨1, .upClick⟩ ⟨25, .noClick⟩, 0, 50) := by decide
/-- V49: the pending click is still pending. -/
theorem test_reconfigure_equal_bounds :
    after (fun s => (s.result, s.changed, s.minValue)) (exec (.reconfigureBounds 5 5 5) clicked)
      = some (.reboundFailed, true, -20) := by decide

/-- V54. -/
theorem test_configure_clamps :
    after (fun s => (s.live, s.mode, s.result)) (exec (.configure 0 10 99 .half) State.reset)
      = some (⟨10, .noClick⟩, .half, .ok true) := by decide
/-- V55, last line: the lower bound is tested first. -/
theorem test_configure_invalid_bounds :
    after (fun s => (s.live.pos, s.result)) (exec (.configure 10 (-10) 50 .full) State.reset)
      = some (-10, .ok false) := by decide

/-- V64. -/
theorem test_begin_seeds_cw2 :
    after (fun s => (s.life, s.ds)) (exec (.beginOp true 0b11#2) ready) = some (.active, 2) := by
  decide
/-- V60. -/
theorem test_begin_adapter_fails :
    after (fun s => (s.life, s.result)) (exec (.beginOp false 0b00#2) ready)
      = some (.configured, .ok false) := by decide

/-- V72. -/
theorem test_end_keeps_ds :
    after (fun s => (s.life, s.ds)) (exec .endOp (full .active 1 ⟨4, .noClick⟩ ⟨4, .noClick⟩ false))
      = some (.configured, 1) := by decide
/-- V74. -/
theorem test_end_when_unconfigured :
    after State.life (exec .endOp State.reset) = some .unconfigured := by decide

/-- V75. -/
theorem test_attach :
    after State.cb (exec (.attachCallback (some 0xF) 7) State.reset) = some f7 := by decide
/-- V76. -/
theorem test_detach :
    after State.cb (exec (.attachCallback none 0) { rest with cb := f7 }) = some none := by decide

/-- V78: an edge that arrives inside the critical section of a read is delayed, not lost. -/
theorem test_fine_read_with_edge_inside :
    (match fineRun [.call .readState, .arrive .bFall, .advance, .advance, .deliver, .advance]
        ⟨full .active 3 ⟨0, .noClick⟩ ⟨0, .noClick⟩ false, .idle, false⟩ with
     | .next f => some (f.core.live, f.core.localRec, f.core.changed, f.core.result)
     | .fault _ => none
     | .refused _ => none)
      = some (⟨1, .upClick⟩, ⟨0, .noClick⟩, true, .read ⟨0, .noClick⟩ false) := by decide
/-- R290: a callback that calls back into its own instance has no meaning. -/
theorem test_fine_callback_reentry :
    (match fineRun [.arrive .bFall, .deliver, .callbackCalls .readState] ⟨atTop, .idle, false⟩ with
     | .next _ => none
     | .fault _ => none
     | .refused r => some r) = some .callbackReentry := by decide
/-- R93: the events of a sample that went from both low to both high. -/
theorem test_edge_events : edgeEvents true 0b00#2 0b11#2 = [.aRise, .bRise] := by decide

/-! ### Witnesses: the hypotheses of every obligation can be met -/

/-- An Active instance with an input waiting and a notification held. -/
def busy : State :=
  { clicked with inbox := [.operation .host [true, true, false]], held := [.aRise] }

theorem rest_inv : Inv rest :=
  ⟨by decide, by decide, by decide, by decide, by decide, by decide, by decide⟩
theorem busy_inv : Inv busy :=
  ⟨by decide, by decide, by decide, by decide, by decide, by decide, by decide⟩

theorem witness_EveryStepKeepsTheInvariants :
    Inv busy ∧ RegistersFit Config.positionWidth busy ∧ ∃ t, step busy = .next t :=
  ⟨busy_inv, by decide, _, rfl⟩
/-- At the largest value of the width. -/
theorem witness_PositionsFitEveryWidth :
    (Instr.setValueAndReadBoth 127).wellFormed 8 = true ∧ Inv rest ∧ RegistersFit 8 rest ∧
    ∃ t, exec (.setValueAndReadBoth 127) rest = .next t :=
  ⟨by decide, rest_inv, by decide, _, rfl⟩
theorem witness_StepRunsTheDecodedOperation :
    let s : State := { rest with inbox := [.operation .host [true, true, false]] }
    (s.held = [] ∨ ¬ EdgeEnabled s) ∧
    decode Config.positionWidth .host [true, true, false] = .ok .readState := by decide
/-- The other way to meet the first hypothesis: something is held, but delivery is masked. -/
theorem witness_StepRunsTheDecodedOperation_masked :
    let s : State := { busy with ien := false }
    s.held ≠ [] ∧ ¬ EdgeEnabled s := by decide
theorem witness_StepDeliversHeldEdgesFirst : EdgeEnabled busy ∧ busy.held = [.aRise] := by decide
theorem witness_StepRunsATableWord : decodeTableWord 8 3 = some .readState := by decide
theorem witness_MalformedInputIsRefused :
    let s : State := { rest with inbox := [.operation .host [true, true, true]] }
    (s.held = [] ∨ ¬ EdgeEnabled s) ∧
    decode Config.positionWidth .host [true, true, true] = .error .reservedSelector := by decide
theorem witness_DestructionEndsTheInstance :
    let s : State := { rest with inbox := [.destroy] }
    (s.destroyed = false ∧ (s.held = [] ∨ ¬ EdgeEnabled s) ∧ s.inbox = [.destroy]) ∧
    s.destroy.destroyed = true := by decide
theorem witness_DecodeOfEncode :
    (Instr.configure (-32768) 32767 (-1) .half).wellFormed 16 = true ∧
    (Instr.setValueAndReadBoth (-1)).wellFormed 1 = true := by decide
theorem witness_EncodeOfDecode :
    decode 1 .host [false, false, true, true] = .ok (.setValueAndReadBoth (-1)) := by decide
theorem witness_RecordPacksAndUnpacks : FitsWidth 1 (-1) ∧ FitsWidth 16 32767 := by decide
/-- In both modes, with a decrement and without. -/
theorem witness_OnEdgeAFallResult :
    EdgeEnabled atBottom ∧ EdgeEnabled rest ∧
    EdgeEnabled (half 0 3 5 ⟨0, .noClick⟩ ⟨0, .noClick⟩ false) := by decide
theorem witness_OnEdgeARiseResult :
    EdgeEnabled rest ∧ EdgeEnabled (half 0 3 2 ⟨0, .noClick⟩ ⟨0, .noClick⟩ false) := by decide
/-- In both modes, with an increment and without. -/
theorem witness_OnEdgeBFallResult :
    EdgeEnabled atTop ∧ EdgeEnabled rest ∧
    EdgeEnabled (half 0 3 6 ⟨3, .noClick⟩ ⟨3, .noClick⟩ false) := by decide
theorem witness_OnEdgeBRiseResult :
    EdgeEnabled rest ∧ EdgeEnabled (half 0 3 1 ⟨3, .noClick⟩ ⟨3, .noClick⟩ false) := by decide
theorem witness_OnEdgeHeldOrRefusedWhenNotEnabled :
    (let s : State := { rest with ien := false }
     s.destroyed = false ∧ s.life = .active ∧ s.ien = false) ∧
    ready.destroyed = false ∧ ready.life ≠ .active ∧
    State.reset.destroyed = false ∧ State.reset.life ≠ .active := by decide
/-- At the bound and one below it. -/
theorem witness_IncrementSaturates :
    let s : State := full .active 3 ⟨19, .noClick⟩ ⟨19, .noClick⟩ false
    EdgeEnabled atTop ∧ deltaAt atTop .bFall = some .increment ∧
    InBounds atTop.live.pos atTop.minValue atTop.maxValue ∧
    EdgeEnabled s ∧ deltaAt s .bFall = some .increment ∧ InBounds s.live.pos s.minValue s.maxValue := by
  decide
/-- At the bound and one above it. -/
theorem witness_DecrementSaturates :
    let s : State := full .active 6 ⟨-19, .noClick⟩ ⟨-19, .noClick⟩ false
    EdgeEnabled atBottom ∧ deltaAt atBottom .aFall = some .decrement ∧
    InBounds atBottom.live.pos atBottom.minValue atBottom.maxValue ∧
    EdgeEnabled s ∧ deltaAt s .aFall = some .decrement ∧ InBounds s.live.pos s.minValue s.maxValue := by
  decide
theorem witness_FlagsAreWrittenAtABound :
    (EdgeEnabled atTop ∧ deltaAt atTop .bFall = some .increment ∧ atTop.live.pos = atTop.maxValue) ∧
    (EdgeEnabled atBottom ∧ deltaAt atBottom .aFall = some .decrement ∧
      atBottom.live.pos = atBottom.minValue) := by decide
/-- First clause, with a callback and a delta. -/
theorem witness_CallbackReportsEachDeltaOnce :
    (∃ t, exec .onEdgeBFall atTop = .next t) ∧ Instr.onEdgeBFall.event? = some .bFall ∧
    atTop.ien = true ∧ deltaAt atTop .bFall ≠ some .none ∧ atTop.cb = f7 :=
  ⟨⟨_, rfl⟩, by decide, by decide, by decide, by decide⟩
/-- Second clause, each of its four cases. -/
theorem witness_CallbackReportsEachDeltaOnce_silent :
    (∃ t, exec .readState atTop = .next t) ∧
    (∃ t, exec .onEdgeBFall { atTop with ien := false } = .next t) ∧
    (∃ t, exec .onEdgeBFall { atTop with cb := none } = .next t) ∧
    (∃ t, exec .onEdgeARise { rest with cb := f7 } = .next t) ∧
    deltaAt { rest with cb := f7 } .aRise = some .none :=
  ⟨⟨_, rfl⟩, ⟨_, rfl⟩, ⟨_, rfl⟩, ⟨_, rfl⟩, by decide⟩
theorem witness_FullTableMovesOnlyOnACompletedCycle :
    EdgeEnabled atBottom ∧ atBottom.mode = .full ∧
    after State.live (exec .onEdgeAFall atBottom) = some ⟨-20, .downClick⟩ ∧
    atBottom.live ≠ ⟨-20, .downClick⟩ := by decide
theorem witness_TablesStayNamedAndRestOnDelta :
    namedState .full 6 = true ∧ (qsm .full 6 0b00#2).2 ≠ some .none ∧
    namedState .half 1 = true ∧ (qsm .half 1 0b11#2).2 ≠ some .none := by decide
theorem witness_ClockwiseCycleIncrementsOnce :
    EdgeEnabled rest ∧ rest.mode = .full ∧ rest.ds = 0 := by decide
theorem witness_CounterClockwiseCycleDecrementsOnce :
    let s : State := full .active 0 ⟨-20, .noClick⟩ ⟨-20, .noClick⟩ false
    EdgeEnabled s ∧ s.mode = .full ∧ s.ds = 0 := by decide
theorem witness_HalfPulseCycleCountsTwice :
    let s : State := half 0 3 0 ⟨2, .noClick⟩ ⟨2, .noClick⟩ false
    EdgeEnabled s ∧ s.mode = .half ∧ s.ds = 0 := by decide
/-- Below the bound and at it (V31, V23). -/
theorem witness_RoundTripRestoresThePosition :
    let s : State := full .active 0 ⟨20, .noClick⟩ ⟨20, .noClick⟩ false
    (EdgeEnabled rest ∧ rest.mode = .full ∧ rest.ds = 0 ∧ rest.minValue < rest.maxValue ∧
      InBounds rest.live.pos rest.minValue rest.maxValue) ∧
    (EdgeEnabled s ∧ s.mode = .full ∧ s.ds = 0 ∧ s.minValue < s.maxValue ∧
      InBounds s.live.pos s.minValue s.maxValue) := by decide
theorem witness_BelievedLevelsFollowActualLevels :
    EdgeEnabled rest ∧ namedState rest.mode rest.ds = true ∧
    believedSample rest.mode rest.ds = some 0b00#2 ∧
    physicallyPossible [.aRise, .bRise, .aFall, .aRise] 0b00#2 = true := by decide
/-- With and without a pending click. -/
theorem witness_ReadStateResult :
    (AppAdmitted clicked ∧ clicked.changed = true) ∧ (AppAdmitted ready ∧ ready.changed = false) := by
  decide
theorem witness_SetValueResult : AppAdmitted clicked ∧ AppAdmitted ready := by decide
theorem witness_ReconfigureBoundsSucceeds : AppAdmitted clicked ∧ (100 : Int) < 101 := by decide
/-- Both clauses; equal and reversed bounds. -/
theorem witness_ReconfigureBoundsFailsWithoutSideEffects :
    (AppAdmitted clicked ∧ clicked.ien = true ∧ (5 : Int) ≤ 5 ∧ (-10 : Int) ≤ 10) ∧
    ∃ t, exec (.reconfigureBounds 0 50 25) clicked = .next t :=
  ⟨by decide, _, rfl⟩
theorem witness_OldPositionIsTheLivePosition :
    Inv rest ∧ (∃ t, exec (.setValueAndReadBoth 3) rest = .next t ∧
      t.result = .both ⟨0, .noClick⟩ ⟨3, .noClick⟩) ∧
    (∃ t, exec (.reconfigureBounds 1 9 5) rest = .next t ∧
      t.result = .rebound ⟨0, .noClick⟩ ⟨5, .noClick⟩) :=
  ⟨rest_inv, ⟨_, rfl, rfl⟩, ⟨_, rfl, rfl⟩⟩
theorem witness_AClickIsReportedOnce :
    ∃ t u v, exec .readState clicked = .next t ∧ t.result ≠ .reboundFailed ∧
      edgesOf [.attachCallback none 0] = [] ∧ runProgram [.attachCallback none 0] t = .next u ∧
      exec (.setValueAndReadBoth 3) u = .next v :=
  ⟨_, _, _, rfl, by decide, by decide, rfl, rfl⟩
theorem witness_SecondReadIsNotFresh : ∃ t, exec .readState clicked = .next t := ⟨_, rfl⟩
theorem witness_OneReadReportsTheLastDetent :
    EdgeEnabled rest ∧ movements .full 0 [.aRise, .bRise, .aFall, .bFall] = [.increment] ∧
    movements .full 0 [.aRise, .aFall] = [] := by decide
theorem witness_AppOperationsRefusedWhenUnconfigured :
    isAppOperation .readState = true ∧ State.reset.destroyed = false ∧
    State.reset.life = .unconfigured := by decide
/-- In every lifecycle state; nothing else is asked. -/
theorem witness_ConfigureResult :
    State.reset.destroyed = false ∧ ready.destroyed = false ∧ rest.destroyed = false := by decide
theorem witness_ConfigureEstablishesTheDataPath :
    State.reset.destroyed = false ∧ busy.destroyed = false ∧ busy.life = .active := by decide
theorem witness_AttachCallbackResult :
    State.reset.destroyed = false ∧ atTop.destroyed = false ∧ atTop.cb = f7 := by decide
theorem witness_EndDeactivates :
    State.reset.destroyed = false ∧ ready.destroyed = false ∧ busy.destroyed = false ∧
    busy.life = .active := by decide
theorem witness_BeginSucceeds :
    ready.destroyed = false ∧ ready.life = .configured ∧ ready.minValue < ready.maxValue := by decide
/-- Each way to fail (V58, V59, V60). -/
theorem witness_BeginFailsWithoutSideEffects :
    let s : State := { ready with minValue := 3, maxValue := 3 }
    (State.reset.destroyed = false ∧ State.reset.life = .unconfigured) ∧
    (s.destroyed = false ∧ s.life = .configured ∧ s.maxValue ≤ s.minValue) ∧
    (ready.destroyed = false ∧ ready.life = .configured) := by decide
theorem witness_BeginRefusedWhileActive : rest.destroyed = false ∧ rest.life = .active := by decide
theorem witness_EndDropsHeldEdges :
    busy.life = .active ∧ ∃ t, exec .endOp busy = .next t := ⟨by decide, _, rfl⟩
theorem witness_BeginAfterEndKeepsThePosition :
    clicked.destroyed = false ∧ clicked.life = .active ∧ clicked.minValue < clicked.maxValue := by
  decide
/-- One operation of each kind that answers a next state. -/
theorem witness_OnlyTheListedOperationsWrite :
    (∃ t, exec .onEdgeBFall atTop = .next t) ∧ (∃ t, exec .readState rest = .next t) ∧
    (∃ t, exec (.attachCallback none 0) rest = .next t) ∧ (∃ t, exec .endOp rest = .next t) :=
  ⟨⟨_, rfl⟩, ⟨_, rfl⟩, ⟨_, rfl⟩, ⟨_, rfl⟩⟩
/-- Each of the three changes, and an edge. -/
theorem witness_LifecycleTransitions :
    after State.life (exec (.configure 0 1 0 .full) State.reset) = some .configured ∧
    after State.life (exec (.beginOp true 0) ready) = some .active ∧
    after State.life (exec .endOp rest) = some .configured ∧
    after State.life (exec .onEdgeARise rest) = some .active := by decide
theorem witness_ModeIsFixedWhileActive :
    after State.life (exec .readState rest) = some .active := by decide
/-- Each clause: an edge with and without a delta; an operation that clears; one that leaves it. -/
theorem witness_ChangedFlagRule :
    after State.changed (exec .onEdgeBFall atTop) = some true ∧
    after State.changed (exec .onEdgeARise rest) = some false ∧
    after State.changed (exec .readState clicked) = some false ∧
    after State.changed (exec .endOp clicked) = some true ∧
    after State.changed (exec .onEdgeBFall { atTop with ien := false }) = some false := by decide
theorem witness_NoEdgeWithoutASuccessfulBegin :
    ready.life ≠ .active ∧
    ∃ t, runProgram ([.beginOp true 0b10#2] ++ EdgeEvent.aRise.instr :: [.readState]) ready
      = .next t :=
  ⟨by decide, _, rfl⟩
theorem witness_UnspecifiedRegistersAreNotRead :
    AgreeUnconfigured State.reset { State.reset with mode := .half, ds := 5, changed := true } :=
  ⟨rfl, rfl, rfl, rfl, rfl, rfl, rfl, rfl, rfl⟩
/-- In both phases of a critical section. -/
theorem witness_NoEdgeInsideACriticalSection :
    (∃ f, fineRun [.call .readState, .arrive .aRise] ⟨rest, .idle, false⟩ = .next f ∧
      f.app = .masked .readState) ∧
    (∃ f, fineRun [.call .readState, .advance] ⟨rest, .idle, false⟩ = .next f ∧
      f.app = .captured (.freshness false)) :=
  ⟨⟨_, rfl, rfl⟩, ⟨_, rfl, rfl⟩⟩
/-- V78's run, with the callback registered and returning. -/
theorem witness_AtomicOperationsAreExact :
    ∃ f, fineRun [.call .readState, .arrive .bFall, .advance, .advance, .deliver,
        .callbackReturns, .advance] ⟨atTop, .idle, false⟩ = .next f ∧ f.app = .idle :=
  ⟨_, rfl, rfl⟩

end Sys2Proof.Tests
end

section
/-! The changed flag (rule R27) and the values that `configure` establishes (rule R39): what each
operation leaves, one lemma for each, and the two obligations assembled from them. -/

open Sys2Proof Sys2Proof.Machine Sys2Proof.Claims

namespace Sys2Proof.Proofs.StateRules

/-! ### Deactivation leaves the registers -/

@[simp] theorem deactivate_changed (s : State) : s.deactivate.changed = s.changed := by
  rw [deactivate_eq]
  split <;> rfl

@[simp] theorem deactivate_cb (s : State) : s.deactivate.cb = s.cb := by
  rw [deactivate_eq]
  split <;> rfl

@[simp] theorem deactivate_ien (s : State) : s.deactivate.ien = s.ien := by
  rw [deactivate_eq]
  split <;> rfl

/-! ### `configure` -/

@[simp] theorem startState_eq_zero (m : Mode) : startState m = 0b000#3 := by
  cases m <;> rfl

/-- `configure` is admitted in every lifecycle state and always completes (rules R210, R212). -/
theorem exec_configure_of_present {s : State} (hd : s.destroyed = false) (lo hi v : Int)
    (m : Mode) :
    exec (.configure lo hi v m) s =
      .next ((((((s.deactivate.setMode m).setBounds lo hi).setDs (startState m)).install
        (clamp v lo hi)).setLife .configured).returning (.ok (decide (lo < hi)))) := by
  simp only [exec, execConfigure, admitAlways_of_present hd]

/-- Settles O43: `configure` completes, and each register is read off the chain of named updates;
only `cb` and `ien` reach back through it to the deactivation. -/
theorem configureEstablishesTheDataPath : Obligations.ConfigureEstablishesTheDataPath := by
  intro lo hi v m s hd
  exact ⟨_, exec_configure_of_present hd lo hi v m, by simp [clamp]⟩

/-! ### What each operation leaves in `changed` -/

/-- The body of the edge handler sets `changed` exactly when the entry has a delta, whether or not
the position moved (rules R27, R173). -/
theorem onEdgeBody_changed {e : EdgeEvent} {s t : State} (h : onEdgeBody e s = .next t) :
    t.changed = if deltaAt s e = some .none then s.changed else true := by
  unfold deltaAt
  obtain ⟨hdelta, rfl⟩ | ⟨hdelta, rfl⟩ | ⟨hdelta, rfl⟩ := onEdgeBody_next h <;> simp [hdelta]

theorem exec_edge_changed {i : Instr} {e : EdgeEvent} {s t : State} (he : i.event? = some e)
    (hien : s.ien = true) (h : exec i s = .next t) :
    t.changed = if deltaAt s e = some .none then s.changed else true := by
  obtain ⟨-, -, ⟨-, hbody⟩ | ⟨hmasked, -⟩⟩ := exec_edge_next he h
  · exact onEdgeBody_changed hbody
  · simp [hien] at hmasked

/-- A masked notification is held by the adapter, and the handler does not run (rule R161). -/
theorem exec_masked_edge_changed {i : Instr} {e : EdgeEvent} {s t : State}
    (he : i.event? = some e) (hien : s.ien = false) (h : exec i s = .next t) :
    t.changed = s.changed := by
  obtain ⟨-, -, ⟨hunmasked, -⟩ | ⟨-, rfl⟩⟩ := exec_edge_next he h
  · simp [hien] at hunmasked
  · exact hold_changed s e

theorem exec_readState_changed {s t : State} (h : exec .readState s = .next t) :
    t.changed = false := by
  obtain ⟨-, -, rfl⟩ := exec_readState_next h
  rw [criticalSection_read]
  cases s.changed <;> rfl

theorem exec_setValueAndReadBoth_changed {v : Int} {s t : State}
    (h : exec (.setValueAndReadBoth v) s = .next t) : t.changed = false := by
  obtain ⟨-, -, rfl⟩ := exec_setValueAndReadBoth_next h
  rw [criticalSection_setValue]

theorem exec_reconfigureBounds_changed {lo hi v : Int} {s t : State} (hlt : lo < hi)
    (h : exec (.reconfigureBounds lo hi v) s = .next t) : t.changed = false := by
  obtain ⟨-, -, rfl⟩ := exec_reconfigureBounds_next h
  rw [criticalSection_reconfigure hlt]

/-- Invalid bounds change nothing (rule R196). -/
theorem exec_reconfigureBounds_fails_changed {lo hi v : Int} {s t : State} (hle : hi ≤ lo)
    (h : exec (.reconfigureBounds lo hi v) s = .next t) : t.changed = s.changed := by
  obtain ⟨-, -, rfl⟩ := exec_reconfigureBounds_next h
  rw [criticalSection_reconfigure_fails (Int.not_lt.mpr hle)]

theorem exec_configure_changed {lo hi v : Int} {m : Mode} {s t : State}
    (h : exec (.configure lo hi v m) s = .next t) : t.changed = false := by
  obtain ⟨-, rfl⟩ := exec_configure_next h
  simp

/-- A failing and a successful `begin` alike keep a pending change (rules R216, R220). -/
theorem exec_begin_changed {ok : Bool} {p : Sample} {s t : State}
    (h : exec (.beginOp ok p) s = .next t) : t.changed = s.changed := by
  obtain ⟨-, ⟨rfl, -⟩ | ⟨-, -, -, rfl⟩⟩ := exec_begin_next h <;> simp

theorem exec_end_changed {s t : State} (h : exec .endOp s = .next t) :
    t.changed = s.changed := by
  obtain ⟨-, rfl⟩ := exec_end_next h
  simp

theorem exec_attachCallback_changed {f : Option Token} {ctx : Token} {s t : State}
    (h : exec (.attachCallback f ctx) s = .next t) : t.changed = s.changed := by
  obtain ⟨-, rfl⟩ := exec_attachCallback_next h
  rw [criticalSection_attach]

/-- Settles O54: each clause lists the operations it speaks of, and each of them has its lemma
above. -/
theorem changedFlagRule : Obligations.ChangedFlagRule := by
  intro i s t h
  refine ⟨fun e he hien => exec_edge_changed he hien h, ?clears, ?keeps⟩
  case clears =>
    rintro (rfl | ⟨v, rfl⟩ | ⟨lo, hi, v, rfl, hlt⟩ | ⟨lo, hi, v, m, rfl⟩)
    · exact exec_readState_changed h
    · exact exec_setValueAndReadBoth_changed h
    · exact exec_reconfigureBounds_changed hlt h
    · exact exec_configure_changed h
  case keeps =>
    rintro (⟨e, he, hien⟩ | ⟨lo, hi, v, rfl, hle⟩ | ⟨ok, p, rfl⟩ | rfl | ⟨f, ctx, rfl⟩)
    · exact exec_masked_edge_changed he hien h
    · exact exec_reconfigureBounds_fails_changed hle h
    · exact exec_begin_changed h
    · exact exec_end_changed h
    · exact exec_attachCallback_changed h

end Sys2Proof.Proofs.StateRules
end

section
/-! SUPPORT. The Quadrature State Machine: where the full-pulse table has a delta, and what an entry
lets an edge do to the live record. -/

open Sys2Proof Sys2Proof.Machine Sys2Proof.Claims

namespace Sys2Proof.Proofs.Qsm

/-! ### The full-pulse table -/

/-- The delta column of the full-pulse table (rule R125): a cycle ends clockwise out of `cw3` and
counter-clockwise out of `ccw3`, and no other entry counts. -/
theorem qsm_full_delta (ds : DecodeState) (e : EdgeEvent) :
    (qsm .full ds e.code).2 =
      some (if ds = 3 ∧ e = .bFall then .increment
        else if ds = 6 ∧ e = .aFall then .decrement else .none) := by
  revert ds
  cases e <;> decide

theorem qsm_full_next_cw3_bFall : (qsm .full 3 EdgeEvent.bFall.code).1 = 0 := by decide

theorem qsm_full_next_ccw3_aFall : (qsm .full 6 EdgeEvent.aFall.code).1 = 0 := by decide

theorem qsm_full_delta_eq_increment_iff (ds : DecodeState) (e : EdgeEvent) :
    (qsm .full ds e.code).2 = some .increment ↔ ds = 3 ∧ e = .bFall := by
  rw [qsm_full_delta]
  split_ifs with hcw <;> simpa using hcw

/-- The two counting entries differ in their event, so the order in which `qsm_full_delta` tests
them does not matter. -/
theorem qsm_full_delta_eq_decrement_iff (ds : DecodeState) (e : EdgeEvent) :
    (qsm .full ds e.code).2 = some .decrement ↔ ds = 6 ∧ e = .aFall := by
  rw [qsm_full_delta]
  split_ifs with hcw hccw
  · simp [hcw]
  · simpa using hccw
  · simpa using hccw

theorem qsm_full_delta_ne_none {ds : DecodeState} {e : EdgeEvent}
    (h : (qsm .full ds e.code).2 ≠ some .none) :
    (ds = 3 ∧ e = .bFall) ∨ (ds = 6 ∧ e = .aFall) := by
  rw [qsm_full_delta] at h
  split_ifs at h with hcw hccw
  · exact .inl hcw
  · exact .inr hccw
  · exact absurd rfl h

/-- A delta always completes the cycle at `start` (rule R125). -/
theorem qsm_full_next_of_delta {ds : DecodeState} {e : EdgeEvent}
    (h : (qsm .full ds e.code).2 ≠ some .none) : (qsm .full ds e.code).1 = 0 := by
  obtain ⟨rfl, rfl⟩ | ⟨rfl, rfl⟩ := qsm_full_delta_ne_none h
  · exact qsm_full_next_cw3_bFall
  · exact qsm_full_next_ccw3_aFall

/-! ### The table entry behind an edge -/

/-- The decode state is written unconditionally (rule R170 step 2). -/
theorem onEdgeBody_ds {e : EdgeEvent} {s t : State} (h : onEdgeBody e s = .next t) :
    t.ds = (qsm s.mode s.ds e.code).1 := by
  obtain ⟨-, rfl⟩ | ⟨-, rfl⟩ | ⟨-, rfl⟩ := onEdgeBody_next h <;> simp

/-- The live record moves only through an entry with a delta (rule R170 steps 4 to 6). -/
theorem onEdgeBody_delta_of_live_ne {e : EdgeEvent} {s t : State} (h : onEdgeBody e s = .next t)
    (hlive : t.live ≠ s.live) : (qsm s.mode s.ds e.code).2 ≠ some .none := by
  obtain ⟨-, rfl⟩ | ⟨hdelta, -⟩ | ⟨hdelta, -⟩ := onEdgeBody_next h
  · exact absurd (setDs_live s _) hlive
  · simp [hdelta]
  · simp [hdelta]

/-- An enabled edge runs the handler (rule R161). -/
theorem exec_instr_of_enabled {e : EdgeEvent} {s : State} (h : EdgeEnabled s) :
    exec e.instr s = onEdgeBody e s := by
  obtain ⟨hpresent, hactive, hien⟩ := h
  simp [exec_instr, edgeNotify, hpresent, hactive, hien]

/-- Settles O17: the table clauses are read off the delta column; an edge that changes the live
record met an entry with a delta, so they apply to it. -/
theorem fullTableMovesOnlyOnACompletedCycle :
    Obligations.FullTableMovesOnlyOnACompletedCycle := by
  refine ⟨fun ds e => ⟨qsm_full_delta_eq_increment_iff ds e, qsm_full_delta_eq_decrement_iff ds e,
    qsm_full_next_of_delta⟩, ?_⟩
  intro e s t henabled hmode hexec hlive
  rw [exec_instr_of_enabled henabled] at hexec
  have hdelta := onEdgeBody_delta_of_live_ne hexec hlive
  have hds := onEdgeBody_ds hexec
  rw [hmode] at hdelta hds
  exact ⟨hds.trans (qsm_full_next_of_delta hdelta), qsm_full_delta_ne_none hdelta⟩

end Sys2Proof.Proofs.Qsm
end

section
/-! The edge handler at and between the bounds (rules R170 to R173): what an enabled increment and
an enabled decrement leave, and that the new position saturates. -/

open Sys2Proof Sys2Proof.Machine Sys2Proof.Claims Sys2Proof.Proofs.Qsm

namespace Sys2Proof.Proofs.ControllerEdge

/-! ### The two writing branches of the handler -/

/-- At most one call, of the registered callback, with the live record (rule R174). -/
theorem callbackCall_eq_map (s : State) :
    callbackCall s = s.cb.toList.map fun g =>
      ⟨g.callback, Config.controllerHandle, s.live, g.userContext⟩ := by
  unfold callbackCall
  cases s.cb <;> rfl

theorem afterIncrement_eq (s : State) (n : DecodeState) :
    afterIncrement s n =
      ((s.setDs n).writeDelta (satinc s.live.pos s.maxValue) .upClick).callBack := by
  rw [State.callBack, callbackCall_eq_map]
  rfl

theorem afterDecrement_eq (s : State) (n : DecodeState) :
    afterDecrement s n =
      ((s.setDs n).writeDelta (satdec s.live.pos s.minValue) .downClick).callBack := by
  rw [State.callBack, callbackCall_eq_map]
  rfl

theorem exec_instr_of_increment {e : EdgeEvent} {s : State} (henabled : EdgeEnabled s)
    (hdelta : deltaAt s e = some .increment) :
    exec e.instr s = .next (afterIncrement s (qsm s.mode s.ds e.code).1) := by
  unfold deltaAt at hdelta
  simp only [exec_instr_of_enabled henabled, onEdgeBody, hdelta, afterIncrement_eq, clickOf]

theorem exec_instr_of_decrement {e : EdgeEvent} {s : State} (henabled : EdgeEnabled s)
    (hdelta : deltaAt s e = some .decrement) :
    exec e.instr s = .next (afterDecrement s (qsm s.mode s.ds e.code).1) := by
  unfold deltaAt at hdelta
  simp only [exec_instr_of_enabled henabled, onEdgeBody, hdelta, afterDecrement_eq, clickOf]

@[simp] theorem afterIncrement_live (s : State) (n : DecodeState) :
    (afterIncrement s n).live = ⟨satinc s.live.pos s.maxValue, .upClick⟩ := rfl

@[simp] theorem afterDecrement_live (s : State) (n : DecodeState) :
    (afterDecrement s n).live = ⟨satdec s.live.pos s.minValue, .downClick⟩ := rfl

@[simp] theorem afterIncrement_changed (s : State) (n : DecodeState) :
    (afterIncrement s n).changed = true := rfl

@[simp] theorem afterDecrement_changed (s : State) (n : DecodeState) :
    (afterDecrement s n).changed = true := rfl

@[simp] theorem afterIncrement_calls (s : State) (n : DecodeState) :
    (afterIncrement s n).calls = s.calls ++ s.cb.toList.map fun g =>
      ⟨g.callback, Config.controllerHandle, ⟨satinc s.live.pos s.maxValue, .upClick⟩,
        g.userContext⟩ := rfl

@[simp] theorem afterDecrement_calls (s : State) (n : DecodeState) :
    (afterDecrement s n).calls = s.calls ++ s.cb.toList.map fun g =>
      ⟨g.callback, Config.controllerHandle, ⟨satdec s.live.pos s.minValue, .downClick⟩,
        g.userContext⟩ := rfl

/-! ### Saturation -/

@[simp] theorem satinc_self (hi : Int) : satinc hi hi = hi := by simp [satinc]

@[simp] theorem satdec_self (lo : Int) : satdec lo lo = lo := by simp [satdec]

/-- R15 writes the bound when it saturates, R171 keeps the position: the same, up to the bound. -/
theorem satinc_of_le {v hi : Int} (h : v ≤ hi) : satinc v hi = if v < hi then v + 1 else v := by
  unfold satinc
  split_ifs <;> omega

/-- The counterpart of `satinc_of_le` at the lower bound (rule R172). -/
theorem satdec_of_le {v lo : Int} (h : lo ≤ v) : satdec v lo = if v > lo then v - 1 else v := by
  unfold satdec
  split_ifs <;> omega

/-- A value between two bounds fits every width that they fit, so no step at a bound overflows
(rule R11). -/
theorem fitsWidth_of_inBounds {v lo hi : Int} (h : InBounds v lo hi) {W : Nat}
    (hlo : FitsWidth W lo) (hhi : FitsWidth W hi) : FitsWidth W v :=
  ⟨hlo.1.trans h.1, h.2.trans_lt hhi.2⟩

/-! ### The obligations -/

/-- Settles O24: the position left is `satinc`, which keeps it within the bounds; the width follows
from the bounds alone. -/
theorem incrementSaturates : Obligations.IncrementSaturates := by
  intro e s henabled hdelta hpos
  have hmem : InBounds (satinc s.live.pos s.maxValue) s.minValue s.maxValue := satinc_mem hpos
  exact ⟨_, exec_instr_of_increment henabled hdelta, satinc_of_le hpos.2, hmem,
    fun _ => fitsWidth_of_inBounds hmem⟩

/-- Settles O25, as O24 with `satdec`. -/
theorem decrementSaturates : Obligations.DecrementSaturates := by
  intro e s henabled hdelta hpos
  have hmem : InBounds (satdec s.live.pos s.minValue) s.minValue s.maxValue := satdec_mem hpos
  exact ⟨_, exec_instr_of_decrement henabled hdelta, satdec_of_le hpos.1, hmem,
    fun _ => fitsWidth_of_inBounds hmem⟩

/-- Settles O26: click, `changed` and the call are written on every delta, and at the bound the
position they carry is the bound itself. -/
theorem flagsAreWrittenAtABound : Obligations.FlagsAreWrittenAtABound := by
  intro e s henabled
  refine ⟨fun hdelta hpos => ?atMax, fun hdelta hpos => ?atMin⟩
  case atMax => exact ⟨_, exec_instr_of_increment henabled hdelta, by simp [hpos]⟩
  case atMin => exact ⟨_, exec_instr_of_decrement henabled hdelta, by simp [hpos]⟩

end Sys2Proof.Proofs.ControllerEdge
end

section
/-! `reconfigureBounds` and its failure without side effects (rules R195, R196): the operation as
one critical section, and what each outcome of its test leaves in the registers. -/

open Sys2Proof Sys2Proof.Machine Sys2Proof.Claims

namespace Sys2Proof.Proofs.ControllerApp

/-- Unmasking is unconditional (rule R75), so it changes nothing where delivery was unmasked. -/
theorem interruptOn_of_unmasked {s : State} (h : s.ien = true) : s.interruptOn = s := by
  rw [State.interruptOn, ← h]

theorem exec_reconfigureBounds_of_admitted {s : State} (h : AppAdmitted s) (lo hi v : Int) :
    exec (.reconfigureBounds lo hi v) s =
      .next (criticalSection (reconfigureInside lo hi v) s) := by
  obtain ⟨hpresent, hlife⟩ := h
  simp only [exec, execReconfigureBounds, admitConfigured_of_admitted hpresent hlife]

/-- With invalid bounds nothing is left of the critical section but the report, where delivery was
unmasked before it. -/
theorem criticalSection_reconfigure_fails_of_unmasked {s : State} {lo hi : Int} (hle : hi ≤ lo)
    (hien : s.ien = true) (v : Int) :
    criticalSection (reconfigureInside lo hi v) s = s.returning .reboundFailed :=
  calc criticalSection (reconfigureInside lo hi v) s
      = s.interruptOn.returning .reboundFailed :=
        criticalSection_reconfigure_fails (Int.not_lt.mpr hle) v s
    _ = s.returning .reboundFailed := by rw [interruptOn_of_unmasked hien]

/-- Whatever the mask was, the bounds left are the ones before, or the given ones and valid. -/
theorem criticalSection_reconfigure_bounds (lo hi v : Int) (s : State) :
    let t := criticalSection (reconfigureInside lo hi v) s
    (t.minValue = s.minValue ∧ t.maxValue = s.maxValue) ∨
      (t.minValue = lo ∧ t.maxValue = hi ∧ lo < hi) := by
  by_cases hlt : lo < hi
  · rw [criticalSection_reconfigure hlt]
    exact .inr ⟨rfl, rfl, hlt⟩
  · rw [criticalSection_reconfigure_fails hlt]
    exact .inl ⟨rfl, rfl⟩

/-- Settles O36: an admitted call is its critical section, which changes only the result when the
bounds are invalid; and the test of R195 stands before every write of the bounds. -/
theorem reconfigureBoundsFailsWithoutSideEffects :
    Obligations.ReconfigureBoundsFailsWithoutSideEffects := by
  refine ⟨fun lo hi v s hadm hien hle => ?fails, fun lo hi v s t h => ?installs⟩
  case fails =>
    rw [exec_reconfigureBounds_of_admitted hadm,
      criticalSection_reconfigure_fails_of_unmasked hle hien]
    rfl
  case installs =>
    obtain ⟨-, -, rfl⟩ := exec_reconfigureBounds_next h
    obtain hkept | ⟨hmin, hmax, hlt⟩ := criticalSection_reconfigure_bounds lo hi v s
    · exact .inl hkept
    · exact .inr (by rwa [hmin, hmax])

end Sys2Proof.Proofs.ControllerApp
end

section
/-! `end` (rules R225, R226): deactivation is idempotent, and where the instance is not Active no
edge can occur. -/

open Sys2Proof Sys2Proof.Machine

namespace Sys2Proof.Proofs.ControllerLifecycle

/-! ### Deactivation -/

@[simp] theorem deactivate_destroyed (s : State) : s.deactivate.destroyed = s.destroyed := by
  rw [deactivate_eq]
  split <;> rfl

theorem deactivate_of_inactive {s : State} (h : s.life ≠ .active) : s.deactivate = s := by
  rw [deactivate_eq, if_neg h]

/-- The frame of deactivation (rule R225): only `life` and the notifications held can differ. -/
theorem deactivate_frame (s : State) :
    s.deactivate =
      { s with
        life := if s.life = .active then .configured else s.life
        held := s.deactivate.held } := by
  by_cases hactive : s.life = .active
  · rw [deactivate_eq, if_pos hactive, if_pos hactive]
    rfl
  · rw [deactivate_of_inactive hactive, if_neg hactive]

/-! ### `end` and the edges after it -/

/-- `end` is admitted in every lifecycle state and always completes (rules R210, R225). -/
theorem exec_end_of_present {s : State} (hpresent : s.destroyed = false) :
    exec .endOp s = .next (s.deactivate.returning .nothing) := by
  simp only [exec, execEnd, admitAlways_of_present hpresent]

theorem exec_end_of_inactive {s : State} (hpresent : s.destroyed = false)
    (hinactive : s.life ≠ .active) : exec .endOp s = .next (s.returning .nothing) := by
  rw [exec_end_of_present hpresent, deactivate_of_inactive hinactive]

theorem exec_instr_of_inactive {s : State} (hpresent : s.destroyed = false)
    (hinactive : s.life ≠ .active) (e : EdgeEvent) :
    exec e.instr s = .refused .edgeWhileInactive := by
  rw [exec_instr]
  cases hlife : s.life with
  | active => exact absurd hlife hinactive
  | configured => simp [edgeNotify, hpresent, hlife]
  | unconfigured => simp [edgeNotify, hpresent, hlife]

/-- Settles O47: the state that `end` leaves is present and not Active, so it refuses every edge,
and a second `end` has nothing to deactivate and reports the same result. -/
theorem endDeactivates : Obligations.EndDeactivates := by
  refine ⟨fun s hpresent => ?_, fun _ => rfl⟩
  have hpresent' : (s.deactivate.returning .nothing).destroyed = false := by simp [hpresent]
  have hinactive : (s.deactivate.returning .nothing).life ≠ .active := deactivate_life_ne_active s
  exact ⟨_, exec_end_of_present hpresent,
    congrArg (State.returning · .nothing) (deactivate_frame s),
    exec_instr_of_inactive hpresent' hinactive, exec_end_of_inactive hpresent' hinactive⟩

end Sys2Proof.Proofs.ControllerLifecycle
end

section
/-! No edge before a successful `begin` (rule R251): what each operation leaves in `life`, the one
operation that can make an instance Active, and the program that reaches an Active state. -/

open Sys2Proof Sys2Proof.Machine Sys2Proof.Claims

namespace Sys2Proof.Proofs.Exceptions

/-! ### Critical sections keep the lifecycle state -/

@[simp] theorem afterCritical_life (c : Capture) (s : State) :
    (afterCritical c s).life = s.life := by
  obtain ⟨k, r, hframe⟩ := afterCritical_frame c s
  rw [hframe]

@[simp] theorem readInside_life (s : State) : (readInside s).1.life = s.life := by
  unfold readInside
  split <;> rfl

@[simp] theorem setValueInside_life (v : Int) (s : State) :
    (setValueInside v s).1.life = s.life := rfl

@[simp] theorem reconfigureInside_life (lo hi v : Int) (s : State) :
    (reconfigureInside lo hi v s).1.life = s.life := by
  unfold reconfigureInside
  split <;> rfl

@[simp] theorem attachInside_life (f : Option Token) (ctx : Token) (s : State) :
    (attachInside f ctx s).1.life = s.life := rfl

theorem criticalSection_life {inside : State → State × Capture}
    (hinside : ∀ s, (inside s).1.life = s.life) (s : State) :
    (criticalSection inside s).life = s.life := by
  simp [criticalSection, hinside]

/-! ### What each operation leaves in `life` -/

theorem exec_readState_life {s t : State} (h : exec .readState s = .next t) :
    t.life = s.life := by
  obtain ⟨-, -, rfl⟩ := exec_readState_next h
  exact criticalSection_life readInside_life s

theorem exec_setValueAndReadBoth_life {v : Int} {s t : State}
    (h : exec (.setValueAndReadBoth v) s = .next t) : t.life = s.life := by
  obtain ⟨-, -, rfl⟩ := exec_setValueAndReadBoth_next h
  exact criticalSection_life (setValueInside_life v) s

theorem exec_reconfigureBounds_life {lo hi v : Int} {s t : State}
    (h : exec (.reconfigureBounds lo hi v) s = .next t) : t.life = s.life := by
  obtain ⟨-, -, rfl⟩ := exec_reconfigureBounds_next h
  exact criticalSection_life (reconfigureInside_life lo hi v) s

theorem exec_attachCallback_life {f : Option Token} {ctx : Token} {s t : State}
    (h : exec (.attachCallback f ctx) s = .next t) : t.life = s.life := by
  obtain ⟨-, rfl⟩ := exec_attachCallback_next h
  exact criticalSection_life (attachInside_life f ctx) s

theorem exec_configure_life {lo hi v : Int} {m : Mode} {s t : State}
    (h : exec (.configure lo hi v m) s = .next t) : t.life = .configured := by
  obtain ⟨-, rfl⟩ := exec_configure_next h
  simp

theorem exec_end_life_ne_active {s t : State} (h : exec .endOp s = .next t) :
    t.life ≠ .active := by
  obtain ⟨-, rfl⟩ := exec_end_next h
  exact deactivate_life_ne_active s

/-- An edge that completes found the instance Active already (rules R161, R210). -/
theorem active_of_exec_edge {i : Instr} {e : EdgeEvent} {s t : State} (he : i.event? = some e)
    (h : exec i s = .next t) : s.life = .active := by
  obtain ⟨-, hactive, -⟩ := exec_edge_next he h
  exact hactive

/-- A `begin` that leaves the instance Active reported success (rules R215, R216). -/
theorem exec_begin_result_of_active {ok : Bool} {p : Sample} {s t : State}
    (h : exec (.beginOp ok p) s = .next t) (ht : t.life = .active) : t.result = .ok true := by
  obtain ⟨-, ⟨rfl, hinactive⟩ | ⟨-, -, -, rfl⟩⟩ := exec_begin_next h
  · exact absurd ht hinactive
  · rfl

/-- Only a successful `begin` makes an instance Active (rules R21, R251). -/
theorem exec_makes_active {i : Instr} {s t : State} (h : exec i s = .next t)
    (hs : s.life ≠ .active) (ht : t.life = .active) :
    ∃ ok p, i = .beginOp ok p ∧ t.result = .ok true := by
  cases i with
  | onEdgeAFall | onEdgeARise | onEdgeBFall | onEdgeBRise =>
    exact absurd (active_of_exec_edge rfl h) hs
  | configure lo hi v m => simp [exec_configure_life h] at ht
  | beginOp ok p => exact ⟨ok, p, rfl, exec_begin_result_of_active h ht⟩
  | endOp => exact absurd ht (exec_end_life_ne_active h)
  | readState => exact absurd (exec_readState_life h ▸ ht) hs
  | setValueAndReadBoth v => exact absurd (exec_setValueAndReadBoth_life h ▸ ht) hs
  | reconfigureBounds lo hi v => exact absurd (exec_reconfigureBounds_life h ▸ ht) hs
  | attachCallback f ctx => exact absurd (exec_attachCallback_life h ▸ ht) hs

/-! ### Programs -/

/-- A program that runs to its end runs each of its prefixes to the end. -/
theorem runProgram_append_next {p q : List Instr} {s t : State}
    (h : runProgram (p ++ q) s = .next t) :
    ∃ u, runProgram p s = .next u ∧ runProgram q u = .next t := by
  induction p generalizing s with
  | nil => exact ⟨s, rfl, h⟩
  | cons i p ih =>
    obtain ⟨u, hi, hrest⟩ := runProgram_cons_next h
    obtain ⟨w, hp, hq⟩ := ih hrest
    exact ⟨w, (runProgram_cons hi).trans hp, hq⟩

/-- The program, started in `s`, runs a `begin` that returns true. -/
def RunsSuccessfulBegin (prog : List Instr) (s : State) : Prop :=
  ∃ (p q : List Instr) (ok : Bool) (sample : Sample) (u v : State),
    prog = p ++ .beginOp ok sample :: q ∧ runProgram p s = .next u ∧
    exec (.beginOp ok sample) u = .next v ∧ v.result = .ok true

theorem RunsSuccessfulBegin.head {ok : Bool} {sample : Sample} {prog : List Instr} {s t : State}
    (h : exec (.beginOp ok sample) s = .next t) (hresult : t.result = .ok true) :
    RunsSuccessfulBegin (.beginOp ok sample :: prog) s :=
  ⟨[], prog, ok, sample, s, t, rfl, rfl, h, hresult⟩

theorem RunsSuccessfulBegin.cons {i : Instr} {prog : List Instr} {s t : State}
    (hi : exec i s = .next t) (h : RunsSuccessfulBegin prog t) :
    RunsSuccessfulBegin (i :: prog) s := by
  obtain ⟨p, q, ok, sample, u, v, rfl, hp, hbegin, hresult⟩ := h
  exact ⟨i :: p, q, ok, sample, u, v, rfl, (runProgram_cons hi).trans hp, hbegin, hresult⟩

/-- A program that leads from a state that is not Active to an Active one runs a successful `begin`
on the way: where it turns Active, or in what follows. -/
theorem runsSuccessfulBegin_of_active {prog : List Instr} {s t : State}
    (h : runProgram prog s = .next t) (hs : s.life ≠ .active) (ht : t.life = .active) :
    RunsSuccessfulBegin prog s := by
  induction prog generalizing s with
  | nil =>
    cases h
    exact absurd ht hs
  | cons i prog ih =>
    obtain ⟨u, hi, hrest⟩ := runProgram_cons_next h
    by_cases hu : u.life = .active
    · obtain ⟨ok, sample, rfl, hresult⟩ := exec_makes_active hi hs hu
      exact .head hi hresult
    · exact .cons hi (ih hrest hu)

/-- Settles O55: the edge completed in the state that the operations before it leave, so that state
is Active, and only a successful `begin` among them can have made it so. -/
theorem noEdgeWithoutASuccessfulBegin : Obligations.NoEdgeWithoutASuccessfulBegin := by
  refine ⟨by decide, fun s t => exec_end_life_ne_active, fun before after e s t hs h => ?_⟩
  obtain ⟨u, hbefore, hedge⟩ := runProgram_append_next h
  obtain ⟨w, hexec, -⟩ := runProgram_cons_next hedge
  have hactive : u.life = .active := active_of_exec_edge e.instr_event? hexec
  exact runsSuccessfulBegin_of_active hbefore hs hactive

end Sys2Proof.Proofs.Exceptions
end

section
/-! Decoding and encoding are inverse (rules R101 to R105). Each decoder is characterised by the one
`↔` that says which bit strings it accepts; at the top, a bit string decodes to an operation exactly
when the operation is well-formed and the string is its encoding. -/

open Sys2Proof

namespace Sys2Proof.Proofs.Encoding

/-! ### What each taker accepts -/

theorem bind_eq_ok_iff {α β : Type} (x : Except DecodeError α) (f : α → Except DecodeError β)
    (b : β) : x >>= f = .ok b ↔ ∃ a, x = .ok a ∧ f a = .ok b := by
  cases x <;> simp [bind, Except.bind]

theorem takeBits_eq_ok_iff (n : Nat) (bs rest : List Bool) (v : Nat) :
    takeBits n bs = .ok (v, rest) ↔ bs = bitsOf n v ++ rest ∧ v < 2 ^ n := by
  refine ⟨takeBits_ok n bs rest v, ?_⟩
  rintro ⟨rfl, hv⟩
  rw [takeBits_bitsOf_append, Nat.mod_eq_of_lt hv]

theorem takePosition_eq_ok_iff {W : Nat} (hW : 0 < W) (bs rest : List Bool) (v : Int) :
    takePosition W bs = .ok (v, rest) ↔ bs = encodePosition W v ++ rest ∧ FitsWidth W v := by
  refine ⟨takePosition_ok hW bs rest v, ?_⟩
  rintro ⟨rfl, hv⟩
  exact takePosition_encodePosition_append hW hv rest

theorem finishDecode_eq_ok_iff (i j : Instr) (rest : List Bool) :
    finishDecode i rest = .ok j ↔ rest = [] ∧ i = j := by
  refine ⟨finishDecode_ok i j rest, ?_⟩
  rintro ⟨rfl, rfl⟩
  rfl

/-! ### Codes of two and of four values are all in use -/

theorem edgeEvent_code_ofBits {n : Nat} (hn : n < 2 ^ 2) : (EdgeEvent.ofBits n).code.toNat = n := by
  interval_cases n <;> rfl

theorem mode_code_ofBits {n : Nat} (hn : n < 2 ^ 1) : (Mode.ofBits n).code.toNat = n := by
  interval_cases n <;> rfl

theorem toNat_beq_one {n : Nat} (hn : n < 2 ^ 1) : (n == 1).toNat = n := by
  interval_cases n <;> rfl

/-! ### The operand lists (rule R102) -/

theorem decodeEdge_eq_ok_iff (bs : List Bool) (i : Instr) :
    decodeEdge bs = .ok i ↔ ∃ e : EdgeEvent, i = e.instr ∧ bs = bitsOf 2 e.code.toNat := by
  simp only [decodeEdge, bind_eq_ok_iff, Prod.exists, takeBits_eq_ok_iff, finishDecode_eq_ok_iff]
  constructor
  · rintro ⟨n, _, ⟨rfl, hn⟩, rfl, rfl⟩
    exact ⟨EdgeEvent.ofBits n, rfl, by rw [edgeEvent_code_ofBits hn, List.append_nil]⟩
  · rintro ⟨e, rfl, rfl⟩
    exact ⟨e.code.toNat, [], ⟨by simp, e.code.isLt⟩, rfl, by rw [EdgeEvent.ofBits_code]⟩

theorem decodeConfigure_eq_ok_iff {W : Nat} (hW : 0 < W) (bs : List Bool) (i : Instr) :
    decodeConfigure W bs = .ok i ↔ ∃ lo hi v m, i = .configure lo hi v m ∧
      FitsWidth W lo ∧ FitsWidth W hi ∧ FitsWidth W v ∧
      bs = encodePosition W lo ++ (encodePosition W hi ++ (encodePosition W v ++
        bitsOf 1 m.code.toNat)) := by
  simp only [decodeConfigure, bind_eq_ok_iff, Prod.exists, takePosition_eq_ok_iff hW,
    takeBits_eq_ok_iff, finishDecode_eq_ok_iff]
  constructor
  · rintro ⟨lo, _, ⟨rfl, hlo⟩, hi, _, ⟨rfl, hhi⟩, v, _, ⟨rfl, hv⟩, n, _, ⟨rfl, hn⟩, rfl, rfl⟩
    exact ⟨lo, hi, v, _, rfl, hlo, hhi, hv, by rw [mode_code_ofBits hn, List.append_nil]⟩
  · rintro ⟨lo, hi, v, m, rfl, hlo, hhi, hv, rfl⟩
    exact ⟨lo, _, ⟨rfl, hlo⟩, hi, _, ⟨rfl, hhi⟩, v, _, ⟨rfl, hv⟩, m.code.toNat, [],
      ⟨by simp, m.code.isLt⟩, rfl, by rw [Mode.ofBits_code]⟩

theorem decodeBegin_eq_ok_iff (bs : List Bool) (i : Instr) :
    decodeBegin bs = .ok i ↔ ∃ ok sample, i = .beginOp ok sample ∧
      bs = bitsOf 1 ok.toNat ++ bitsOf 2 sample.toNat := by
  simp only [decodeBegin, bind_eq_ok_iff, Prod.exists, takeBits_eq_ok_iff, finishDecode_eq_ok_iff]
  constructor
  · rintro ⟨n, _, ⟨rfl, hn⟩, p, _, ⟨rfl, hp⟩, rfl, rfl⟩
    exact ⟨_, _, rfl, by
      rw [toNat_beq_one hn, BitVec.toNat_ofNat, Nat.mod_eq_of_lt hp, List.append_nil]⟩
  · rintro ⟨ok, sample, rfl, rfl⟩
    exact ⟨ok.toNat, _, ⟨rfl, ok.toNat_lt⟩, sample.toNat, [], ⟨by simp, sample.isLt⟩, rfl,
      by cases ok <;> simp⟩

theorem decodeSetValue_eq_ok_iff {W : Nat} (hW : 0 < W) (bs : List Bool) (i : Instr) :
    decodeSetValue W bs = .ok i ↔ ∃ v, i = .setValueAndReadBoth v ∧ FitsWidth W v ∧
      bs = encodePosition W v := by
  simp only [decodeSetValue, bind_eq_ok_iff, Prod.exists, takePosition_eq_ok_iff hW,
    finishDecode_eq_ok_iff]
  constructor
  · rintro ⟨v, _, ⟨rfl, hv⟩, rfl, rfl⟩
    exact ⟨v, rfl, hv, List.append_nil _⟩
  · rintro ⟨v, rfl, hv, rfl⟩
    exact ⟨v, [], ⟨(List.append_nil _).symm, hv⟩, rfl, rfl⟩

theorem decodeReconfigure_eq_ok_iff {W : Nat} (hW : 0 < W) (bs : List Bool) (i : Instr) :
    decodeReconfigure W bs = .ok i ↔ ∃ lo hi v, i = .reconfigureBounds lo hi v ∧
      FitsWidth W lo ∧ FitsWidth W hi ∧ FitsWidth W v ∧
      bs = encodePosition W lo ++ (encodePosition W hi ++ encodePosition W v) := by
  simp only [decodeReconfigure, bind_eq_ok_iff, Prod.exists, takePosition_eq_ok_iff hW,
    finishDecode_eq_ok_iff]
  constructor
  · rintro ⟨lo, _, ⟨rfl, hlo⟩, hi, _, ⟨rfl, hhi⟩, v, _, ⟨rfl, hv⟩, rfl, rfl⟩
    exact ⟨lo, hi, v, rfl, hlo, hhi, hv, by rw [List.append_nil]⟩
  · rintro ⟨lo, hi, v, rfl, hlo, hhi, hv, rfl⟩
    exact ⟨lo, _, ⟨rfl, hlo⟩, hi, _, ⟨rfl, hhi⟩, v, [], ⟨by simp, hv⟩, rfl, rfl⟩

/-- With the presence bit 0 only the zero token is accepted, so `none` has one encoding (log 3). -/
theorem decodeAttach_eq_ok_iff (bs : List Bool) (i : Instr) :
    decodeAttach bs = .ok i ↔ ∃ f ctx, i = .attachCallback f ctx ∧
      bs = encodeCallback f ++ bitsOf Config.tokenWidth ctx.toNat := by
  simp only [decodeAttach, bind_eq_ok_iff, Prod.exists, takeBits_eq_ok_iff]
  constructor
  · rintro ⟨present, _, ⟨rfl, hpresent⟩, f, _, ⟨rfl, hf⟩, ctx, _, ⟨rfl, hctx⟩, h⟩
    have hctx' : (BitVec.ofNat Config.tokenWidth ctx).toNat = ctx := by
      rw [BitVec.toNat_ofNat, Nat.mod_eq_of_lt hctx]
    have hf' : (BitVec.ofNat Config.tokenWidth f).toNat = f := by
      rw [BitVec.toNat_ofNat, Nat.mod_eq_of_lt hf]
    split_ifs at h with hsome hnone <;> simp only [finishDecode_eq_ok_iff] at h
    · obtain ⟨rfl, rfl⟩ := h
      exact ⟨_, _, rfl, by simp [encodeCallback, hsome, hf', hctx', bitsOf]⟩
    · obtain ⟨rfl, rfl⟩ := h
      have habsent : present = 0 := by omega
      exact ⟨_, _, rfl, by simp [encodeCallback, habsent, hnone, hctx', bitsOf]⟩
  · rintro ⟨f, ctx, rfl, rfl⟩
    cases f with
    | none =>
      exact ⟨0, _, ⟨rfl, by decide⟩, 0, _, ⟨rfl, by decide⟩, ctx.toNat, [], ⟨by simp, ctx.isLt⟩,
        by simp⟩
    | some f =>
      exact ⟨1, _, ⟨rfl, by decide⟩, f.toNat, _, ⟨rfl, f.isLt⟩, ctx.toNat, [],
        ⟨by simp, ctx.isLt⟩, by simp⟩

/-! ### The two formats and the whole decoder -/

theorem wellFormed_encode_of_decodeHost {W : Nat} (hW : 0 < W) {bs : List Bool} {i : Instr}
    (h : decodeHost W bs = .ok i) : i.wellFormed W = true ∧ encode W i = (.host, bs) := by
  simp only [decodeHost, bind_eq_ok_iff, Prod.exists, takeBits_eq_ok_iff] at h
  obtain ⟨op, rest, ⟨rfl, hop⟩, h⟩ := h
  interval_cases op
  · obtain ⟨lo, hi, v, m, rfl, hlo, hhi, hv, rfl⟩ := (decodeConfigure_eq_ok_iff hW _ _).mp h
    simp [Instr.wellFormed, encode, Instr.port, Instr.event?, Instr.bits, hlo, hhi, hv]
  · obtain ⟨ok, sample, rfl, rfl⟩ := (decodeBegin_eq_ok_iff _ _).mp h
    exact ⟨rfl, rfl⟩
  · obtain ⟨rfl, rfl⟩ := (finishDecode_eq_ok_iff _ _ _).mp h
    exact ⟨rfl, rfl⟩
  · obtain ⟨rfl, rfl⟩ := (finishDecode_eq_ok_iff _ _ _).mp h
    exact ⟨rfl, rfl⟩
  · obtain ⟨v, rfl, hv, rfl⟩ := (decodeSetValue_eq_ok_iff hW _ _).mp h
    simp [Instr.wellFormed, encode, Instr.port, Instr.event?, Instr.bits, hv]
  · obtain ⟨lo, hi, v, rfl, hlo, hhi, hv, rfl⟩ := (decodeReconfigure_eq_ok_iff hW _ _).mp h
    simp [Instr.wellFormed, encode, Instr.port, Instr.event?, Instr.bits, hlo, hhi, hv]
  · obtain ⟨f, ctx, rfl, rfl⟩ := (decodeAttach_eq_ok_iff _ _).mp h
    exact ⟨rfl, rfl⟩
  · cases h

/-- Settles O12: each format accepts the encodings of its own operations only, as its `↔` says. -/
theorem encodeOfDecode : Obligations.EncodeOfDecode := by
  intro W port bits i hW h
  cases port with
  | edge =>
    obtain ⟨e, rfl, rfl⟩ := (decodeEdge_eq_ok_iff bits i).mp h
    cases e <;> exact ⟨rfl, rfl⟩
  | host => exact wellFormed_encode_of_decodeHost hW h

/-- Settles O11: an encoding is the selector and an operand list that the selector's decoder
accepts; where there is nothing to read but codes, the decoder computes. -/
theorem decodeOfEncode : Obligations.DecodeOfEncode := by
  intro W i hW hwf
  cases i with
  | onEdgeAFall | onEdgeARise | onEdgeBFall | onEdgeBRise => rfl
  | configure lo hi v m =>
    simp only [Instr.wellFormed, Bool.and_eq_true, decide_eq_true_eq] at hwf
    obtain ⟨⟨hlo, hhi⟩, hv⟩ := hwf
    change decodeConfigure W (encodePosition W lo ++ encodePosition W hi ++ encodePosition W v ++
      bitsOf 1 m.code.toNat) = _
    exact (decodeConfigure_eq_ok_iff hW _ _).mpr
      ⟨lo, hi, v, m, rfl, hlo, hhi, hv, by simp only [List.append_assoc]⟩
  | beginOp ok sample => exact (decodeBegin_eq_ok_iff _ _).mpr ⟨ok, sample, rfl, rfl⟩
  | endOp | readState => rfl
  | setValueAndReadBoth v =>
    exact (decodeSetValue_eq_ok_iff hW _ _).mpr ⟨v, rfl, of_decide_eq_true hwf, rfl⟩
  | reconfigureBounds lo hi v =>
    simp only [Instr.wellFormed, Bool.and_eq_true, decide_eq_true_eq] at hwf
    obtain ⟨⟨hlo, hhi⟩, hv⟩ := hwf
    change decodeReconfigure W (encodePosition W lo ++ encodePosition W hi ++
      encodePosition W v) = _
    exact (decodeReconfigure_eq_ok_iff hW _ _).mpr
      ⟨lo, hi, v, rfl, hlo, hhi, hv, List.append_assoc _ _ _⟩
  | attachCallback f ctx => exact (decodeAttach_eq_ok_iff _ _).mpr ⟨f, ctx, rfl, rfl⟩

/-- Settles O10: each word is short and written out, so the decoder computes. -/
theorem sampleWordsDecode : Obligations.SampleWordsDecode := by
  unfold Obligations.SampleWordsDecode
  decide

/-! ### The packed record -/

theorem record_click_pack (W : Nat) (r : Record) : (r.pack W).extractLsb' W 2 = r.click.code :=
  BitVec.extractLsb'_append_eq_left

theorem record_pos_pack {W : Nat} (hW : 0 < W) {r : Record} (hpos : FitsWidth W r.pos) :
    ((r.pack W).extractLsb' 0 W).toInt = r.pos := by
  have hlow : (r.pack W).extractLsb' 0 W = BitVec.ofInt W r.pos :=
    BitVec.extractLsb'_append_eq_right
  rw [hlow, BitVec.toInt_ofInt_eq_self hW hpos.1 hpos.2]

/-- Settles O13: the two fields of the packed form do not overlap, and each is read back. -/
theorem recordPacksAndUnpacks : Obligations.RecordPacksAndUnpacks := by
  intro W r hW hpos
  rw [Record.unpack, record_click_pack, Click.ofCode_code, Option.map_some, record_pos_pack hW hpos]

end Sys2Proof.Proofs.Encoding
end

section
/-! The application and the lifecycle operations as results with frames (rules R180 to R230): each
admitted operation as one update of the state, and the refusals. -/

open Sys2Proof Sys2Proof.Machine Sys2Proof.Claims
open Sys2Proof.Proofs.StateRules Sys2Proof.Proofs.ControllerApp
open Sys2Proof.Proofs.ControllerLifecycle

namespace Sys2Proof.Proofs.HostOperations

/-! ### The application operations -/

theorem exec_readState_of_admitted {s : State} (h : AppAdmitted s) :
    exec .readState s = .next (criticalSection readInside s) := by
  obtain ⟨hpresent, hlife⟩ := h
  simp only [exec, execReadState, admitConfigured_of_admitted hpresent hlife]

theorem exec_setValueAndReadBoth_of_admitted {s : State} (h : AppAdmitted s) (v : Int) :
    exec (.setValueAndReadBoth v) s = .next (criticalSection (setValueInside v) s) := by
  obtain ⟨hpresent, hlife⟩ := h
  simp only [exec, execSetValueAndReadBoth, admitConfigured_of_admitted hpresent hlife]

theorem exec_attachCallback_of_present {s : State} (hpresent : s.destroyed = false)
    (f : Option Token) (ctx : Token) :
    exec (.attachCallback f ctx) s = .next (criticalSection (attachInside f ctx) s) := by
  simp only [exec, execAttachCallback, admitAlways_of_present hpresent]

theorem admitConfigured_of_unconfigured {s : State} (hpresent : s.destroyed = false)
    (hlife : s.life = .unconfigured) (k : State → Answer) :
    admitConfigured s k = .refused .unconfigured := by
  simp [admitConfigured, admitAlways_of_present hpresent, hlife]

/-- Settles O33: the two branches of the critical section, one for each value of `changed`. -/
theorem readStateResult : Obligations.ReadStateResult := by
  intro s hadm
  rw [exec_readState_of_admitted hadm, criticalSection_read]
  cases s.changed <;> rfl

/-- Settles O34: the closed form of the critical section, with `clamp` and `snapshot` written
out. -/
theorem setValueResult : Obligations.SetValueResult := by
  intro v s hadm
  rw [exec_setValueAndReadBoth_of_admitted hadm, criticalSection_setValue]
  rfl

/-- Settles O35, as O34. -/
theorem reconfigureBoundsSucceeds : Obligations.ReconfigureBoundsSucceeds := by
  intro lo hi v s hadm hlt
  rw [exec_reconfigureBounds_of_admitted hadm, criticalSection_reconfigure hlt]
  rfl

/-- What a read leaves for the next one: no change pending, and the local position it reported. -/
theorem exec_readState_leaves {s t : State} (h : exec .readState s = .next t) :
    AppAdmitted t ∧ t.changed = false := by
  obtain ⟨hpresent, hlife, rfl⟩ := exec_readState_next h
  rw [criticalSection_read]
  cases s.changed <;> exact ⟨⟨hpresent, hlife⟩, by rfl⟩

/-- Settles O39: the first read leaves no change pending, so the second takes the branch that
repeats the local position. -/
theorem secondReadIsNotFresh : Obligations.SecondReadIsNotFresh := by
  intro s t h
  obtain ⟨hadm, hchanged⟩ := exec_readState_leaves h
  refine ⟨_, exec_readState_of_admitted hadm, ?_⟩
  rw [criticalSection_read, hchanged]
  rfl

/-- Settles O41: the three operations share one admission. -/
theorem appOperationsRefusedWhenUnconfigured :
    Obligations.AppOperationsRefusedWhenUnconfigured := by
  intro i s happ hpresent hlife
  have hrefuse := admitConfigured_of_unconfigured hpresent hlife
  cases i <;> simp only [isAppOperation, Bool.false_eq_true] at happ
  case readState => rw [exec, execReadState, hrefuse]
  case setValueAndReadBoth v => rw [exec, execSetValueAndReadBoth, hrefuse]
  case reconfigureBounds lo hi v => rw [exec, execReconfigureBounds, hrefuse]

/-- Settles O37: while no click is pending the snapshot has the local position, which is the live
one then (rule R34 item 3). -/
theorem oldPositionIsTheLivePosition : Obligations.OldPositionIsTheLivePosition := by
  intro s t old new hinv
  have hsnapshot (hlife : s.life ≠ .unconfigured) : (snapshot s).pos = s.live.pos := by
    unfold snapshot
    split
    · rfl
    · exact hinv.current hlife (by simpa using ‹¬ s.changed = true›)
  refine ⟨fun v h hresult => ?_, fun lo hi v h hresult => ?_⟩
  · obtain ⟨-, hlife, rfl⟩ := exec_setValueAndReadBoth_next h
    obtain ⟨rfl, -⟩ := Result.both.inj hresult
    exact hsnapshot hlife
  · obtain ⟨-, hlife, rfl⟩ := exec_reconfigureBounds_next h
    by_cases hlt : lo < hi
    · rw [criticalSection_reconfigure hlt] at hresult
      obtain ⟨rfl, -⟩ := Result.rebound.inj hresult
      exact hsnapshot hlife
    · rw [criticalSection_reconfigure_fails hlt] at hresult
      cases hresult

/-! ### The lifecycle operations -/

/-- Settles O42: the chain of named updates after the deactivation, which drops what is held only
where the instance was Active. -/
theorem configureResult : Obligations.ConfigureResult := by
  intro lo hi v m s hpresent
  rw [exec_configure_of_present hpresent, deactivate_eq, startState_eq_zero]
  by_cases hactive : s.life = .active
  · rw [if_pos hactive, if_pos hactive]; rfl
  · rw [if_neg hactive, if_neg hactive]; rfl

theorem exec_begin_of_configured {s : State} (hpresent : s.destroyed = false)
    (hlife : s.life = .configured) (ok : Bool) (p : Sample) :
    exec (.beginOp ok p) s = .next
      (if s.minValue < s.maxValue ∧ ok = true then
        ((s.setDs (seed s.mode p)).setLife .active).returning (.ok true)
      else s.returning (.ok false)) := by
  simp only [exec, execBegin, admitAlways_of_present hpresent, hlife]
  by_cases hlt : s.minValue < s.maxValue <;> cases ok <;> simp [hlt]

theorem exec_begin_of_unconfigured {s : State} (hpresent : s.destroyed = false)
    (hlife : s.life = .unconfigured) (ok : Bool) (p : Sample) :
    exec (.beginOp ok p) s = .next (s.returning (.ok false)) := by
  simp only [exec, execBegin, admitAlways_of_present hpresent, hlife]

/-- The seed tables written out (rule R222). -/
theorem seed_eq (m : Mode) (p : Sample) :
    seed m p = match m with
      | .full => if p = 0 then 0 else if p = 1 then 1 else if p = 2 then 4 else 2
      | .half => if p = 0 then 0 else if p = 1 then 1 else if p = 2 then 2 else 7 := by
  revert p
  cases m <;> decide

theorem exec_begin_succeeds {s : State} (hpresent : s.destroyed = false)
    (hlife : s.life = .configured) (hlt : s.minValue < s.maxValue) (p : Sample) :
    exec (.beginOp true p) s =
      .next (((s.setDs (seed s.mode p)).setLife .active).returning (.ok true)) := by
  rw [exec_begin_of_configured hpresent hlife, if_pos ⟨hlt, rfl⟩]

/-- Settles O44, with the seed table written out. -/
theorem beginSucceeds : Obligations.BeginSucceeds := by
  intro p s hpresent hlife hlt
  rw [exec_begin_succeeds hpresent hlife hlt, seed_eq]
  rfl

/-- Settles O45: each way to fail misses one of the three things that `begin` asks for. -/
theorem beginFailsWithoutSideEffects : Obligations.BeginFailsWithoutSideEffects := by
  rintro ok p s hpresent (hlife | ⟨hlife, hfails⟩)
  · exact exec_begin_of_unconfigured hpresent hlife ok p
  · rw [exec_begin_of_configured hpresent hlife, if_neg]
    · rfl
    · rintro ⟨hlt, hok⟩
      obtain hle | hfalse := hfails
      · omega
      · simp [hok] at hfalse

/-- Settles O46: the lifecycle state alone decides. -/
theorem beginRefusedWhileActive : Obligations.BeginRefusedWhileActive := by
  intro ok p s hpresent hlife
  simp only [exec, execBegin, admitAlways_of_present hpresent, hlife]

/-- Settles O48: from Active, deactivation empties what is held. -/
theorem endDropsHeldEdges : Obligations.EndDropsHeldEdges := by
  intro s t hlife h
  obtain ⟨-, rfl⟩ := exec_end_next h
  rw [deactivate_eq, if_pos hlife]
  rfl

/-- Settles O49: `end` leaves a Configured instance with the same bounds, and `begin` writes only
`life`, `ds` and the result. -/
theorem beginAfterEndKeepsThePosition : Obligations.BeginAfterEndKeepsThePosition := by
  intro p s hpresent hactive hlt
  have hend : exec .endOp s = .next (((s.setLife .configured).setHeld []).returning .nothing) := by
    rw [exec_end_of_present hpresent, deactivate_eq, if_pos hactive]
  have hbegin := exec_begin_succeeds
    (s := ((s.setLife .configured).setHeld []).returning .nothing) hpresent rfl hlt p
  refine ⟨_, (runProgram_cons hend).trans (runProgram_cons hbegin), ?_, rfl⟩
  rw [← hactive]
  rfl

/-- Settles O50: with no callback the pair is dropped whole. -/
theorem attachCallbackResult : Obligations.AttachCallbackResult := by
  intro f ctx s hpresent
  rw [exec_attachCallback_of_present hpresent, criticalSection_attach]
  cases f <;> rfl

end Sys2Proof.Proofs.HostOperations
end

section
/-! The edge operations as a total function of the state (rules R165 to R168, R170): what one edge
leaves, the four columns of the tables, the cycles, and sequences of edges of any length. -/

open Sys2Proof Sys2Proof.Machine Sys2Proof.Claims
open Sys2Proof.Proofs.Qsm Sys2Proof.Proofs.ControllerEdge Sys2Proof.Proofs.ControllerLifecycle
open Sys2Proof.Proofs.HostOperations

namespace Sys2Proof.Proofs.EdgeOperations

/-! ### The tables -/

/-- Settles O15: a finite claim, one row for each event. -/
theorem fullTableIsItsPaths : Obligations.FullTableIsItsPaths := by
  intro ds e
  revert ds
  cases e <;> decide

/-- Settles O16, as O15. -/
theorem halfTableIsItsPaths : Obligations.HalfTableIsItsPaths := by
  intro ds e
  revert ds
  cases e <;> decide

/-- A delta leads to a rest state (rules R125, R146). -/
theorem qsm_rest_of_delta {m : Mode} {ds : DecodeState} {e : EdgeEvent}
    (h : (qsm m ds e.code).2 ≠ some .none) : restState m (qsm m ds e.code).1 = true := by
  revert ds
  cases m <;> cases e <;> decide

/-- Settles O18: the three closure facts of the tables. -/
theorem tablesStayNamedAndRestOnDelta : Obligations.TablesStayNamedAndRestOnDelta := fun m ds e =>
  ⟨Option.isSome_iff_ne_none.mp (qsm_delta_isSome m ds e.code), qsm_next_named m ds e.code,
    qsm_rest_of_delta⟩

/-- A named state that believes the actual levels believes the next ones after every event that can
happen at them (rules R136, R145). -/
theorem believedSample_next {m : Mode} {ds : DecodeState} {p : Sample} {e : EdgeEvent}
    (hnamed : namedState m ds = true) (hp : believedSample m ds = some p)
    (he : applyEvent e p ≠ p) :
    believedSample m (qsm m ds e.code).1 = some (applyEvent e p) := by
  revert ds p
  cases m <;> cases e <;> decide

/-- Settles O14: four samples, four samples, two orders. -/
theorem adapterEventsFollowTheLevels : Obligations.AdapterEventsFollowTheLevels := by
  unfold Obligations.AdapterEventsFollowTheLevels
  decide

/-! ### One edge -/

/-- What an enabled `onEdge(e)` leaves: the move of the table entry that the event meets. -/
def edgeStep (s : State) (e : EdgeEvent) : State :=
  match qsm s.mode s.ds e.code with
  | (n, some .increment) => afterIncrement s n
  | (n, some .decrement) => afterDecrement s n
  | (n, _) => s.setDs n

theorem edgeStep_of_none {s : State} {e : EdgeEvent} {n : DecodeState}
    (h : qsm s.mode s.ds e.code = (n, some .none)) : edgeStep s e = s.setDs n := by
  simp only [edgeStep, h]

theorem edgeStep_of_increment {s : State} {e : EdgeEvent} {n : DecodeState}
    (h : qsm s.mode s.ds e.code = (n, some .increment)) : edgeStep s e = afterIncrement s n := by
  simp only [edgeStep, h]

theorem edgeStep_of_decrement {s : State} {e : EdgeEvent} {n : DecodeState}
    (h : qsm s.mode s.ds e.code = (n, some .decrement)) : edgeStep s e = afterDecrement s n := by
  simp only [edgeStep, h]

/-- Every entry is one of three kinds (rule R123): the case split behind each fact about an edge. -/
theorem qsm_cases (m : Mode) (ds : DecodeState) (e : EventCode) :
    ∃ n, qsm m ds e = (n, some .none) ∨ qsm m ds e = (n, some .increment) ∨
      qsm m ds e = (n, some .decrement) := by
  obtain ⟨d, hd⟩ := Option.isSome_iff_exists.mp (qsm_delta_isSome m ds e)
  refine ⟨(qsm m ds e).1, ?_⟩
  cases d <;> simp [Prod.ext_iff, hd]

theorem exec_instr_eq_edgeStep {s : State} (h : EdgeEnabled s) (e : EdgeEvent) :
    exec e.instr s = .next (edgeStep s e) := by
  obtain ⟨n, hq | hq | hq⟩ := qsm_cases s.mode s.ds e.code
  · simp [exec_instr_of_enabled h, onEdgeBody, hq, edgeStep_of_none hq]
  · rw [edgeStep_of_increment hq, exec_instr_of_increment h (by rw [deltaAt, hq]), hq]
  · rw [edgeStep_of_decrement hq, exec_instr_of_decrement h (by rw [deltaAt, hq]), hq]

theorem edgeStep_frame (s : State) (e : EdgeEvent) :
    ∃ n live changed calls, edgeStep s e =
      { s with ds := n, live := live, changed := changed, calls := calls } := by
  obtain ⟨n, hq | hq | hq⟩ := qsm_cases s.mode s.ds e.code
  · exact ⟨_, _, _, _, edgeStep_of_none hq⟩
  · exact ⟨_, _, _, _, edgeStep_of_increment hq⟩
  · exact ⟨_, _, _, _, edgeStep_of_decrement hq⟩

theorem edgeStep_ds (s : State) (e : EdgeEvent) :
    (edgeStep s e).ds = (qsm s.mode s.ds e.code).1 := by
  obtain ⟨n, hq | hq | hq⟩ := qsm_cases s.mode s.ds e.code
  · rw [edgeStep_of_none hq, hq]; rfl
  · rw [edgeStep_of_increment hq, hq]; rfl
  · rw [edgeStep_of_decrement hq, hq]; rfl

@[simp] theorem edgeStep_mode (s : State) (e : EdgeEvent) : (edgeStep s e).mode = s.mode := by
  obtain ⟨_, _, _, _, hframe⟩ := edgeStep_frame s e
  rw [hframe]

@[simp] theorem edgeStep_minValue (s : State) (e : EdgeEvent) :
    (edgeStep s e).minValue = s.minValue := by
  obtain ⟨_, _, _, _, hframe⟩ := edgeStep_frame s e
  rw [hframe]

@[simp] theorem edgeStep_maxValue (s : State) (e : EdgeEvent) :
    (edgeStep s e).maxValue = s.maxValue := by
  obtain ⟨_, _, _, _, hframe⟩ := edgeStep_frame s e
  rw [hframe]

theorem edgeStep_enabled {s : State} (h : EdgeEnabled s) (e : EdgeEvent) :
    EdgeEnabled (edgeStep s e) := by
  obtain ⟨_, _, _, _, hframe⟩ := edgeStep_frame s e
  rw [hframe]
  exact h

/-- Unmasked, an edge that completes found the instance enabled and makes its move (rule R161). -/
theorem exec_edge_of_unmasked {i : Instr} {e : EdgeEvent} {s t : State} (he : i.event? = some e)
    (hien : s.ien = true) (h : exec i s = .next t) : EdgeEnabled s ∧ t = edgeStep s e := by
  obtain ⟨hpresent, hactive, -⟩ := exec_edge_next he h
  have henabled : EdgeEnabled s := ⟨hpresent, hactive, hien⟩
  rw [instr_of_event? he, exec_instr_eq_edgeStep henabled] at h
  exact ⟨henabled, (Host.Outcome.next.inj h).symm⟩

/-! ### The four columns of the two tables (rules R165 to R168) -/

theorem qsm_aFall (s : State) :
    qsm s.mode s.ds EdgeEvent.aFall.code =
      if (s.mode = .full ∧ s.ds = 6) ∨ (s.mode = .half ∧ s.ds = 5) then (0, some .decrement)
      else (column [0, 0, 3, 0, 0, 4, 0, 0] [0, 0, 2, 7, 0, 0, 6, 6] s, some .none) := by
  unfold column
  generalize s.ds = ds
  cases s.mode <;> revert ds <;> decide

theorem qsm_aRise (s : State) :
    qsm s.mode s.ds EdgeEvent.aRise.code =
      if s.mode = .half ∧ s.ds = 2 then (7, some .decrement)
      else (column [1, 0, 0, 2, 5, 0, 0, 0] [1, 1, 7, 7, 0, 5, 7, 7] s, some .none) := by
  unfold column
  generalize s.ds = ds
  cases s.mode <;> revert ds <;> decide

theorem qsm_bFall (s : State) :
    qsm s.mode s.ds EdgeEvent.bFall.code =
      if (s.mode = .full ∧ s.ds = 3) ∨ (s.mode = .half ∧ s.ds = 6) then (0, some .increment)
      else (column [0, 0, 1, 0, 0, 6, 0, 0] [0, 1, 0, 7, 0, 5, 0, 5] s, some .none) := by
  unfold column
  generalize s.ds = ds
  cases s.mode <;> revert ds <;> decide

theorem qsm_bRise (s : State) :
    qsm s.mode s.ds EdgeEvent.bRise.code =
      if s.mode = .half ∧ s.ds = 1 then (7, some .increment)
      else (column [4, 2, 0, 0, 0, 0, 5, 0] [2, 7, 2, 7, 0, 7, 6, 7] s, some .none) := by
  unfold column
  generalize s.ds = ds
  cases s.mode <;> revert ds <;> decide

/-- An edge whose column decrements under `c` and is without a delta elsewhere. -/
theorem exec_instr_of_decrement_column {s : State} {e : EdgeEvent} {c : Prop} [Decidable c]
    {n n' : DecodeState} (henabled : EdgeEnabled s)
    (hq : qsm s.mode s.ds e.code = if c then (n, some .decrement) else (n', some .none)) :
    exec e.instr s = .next (if c then afterDecrement s n else s.setDs n') := by
  rw [exec_instr_eq_edgeStep henabled]
  split_ifs at hq ⊢
  · rw [edgeStep_of_decrement hq]
  · rw [edgeStep_of_none hq]

/-- An edge whose column increments under `c` and is without a delta elsewhere. -/
theorem exec_instr_of_increment_column {s : State} {e : EdgeEvent} {c : Prop} [Decidable c]
    {n n' : DecodeState} (henabled : EdgeEnabled s)
    (hq : qsm s.mode s.ds e.code = if c then (n, some .increment) else (n', some .none)) :
    exec e.instr s = .next (if c then afterIncrement s n else s.setDs n') := by
  rw [exec_instr_eq_edgeStep henabled]
  split_ifs at hq ⊢
  · rw [edgeStep_of_increment hq]
  · rw [edgeStep_of_none hq]

/-- Settles O19: the entry is the one in the column, and the edge makes that entry's move. -/
theorem onEdgeAFallResult : Obligations.OnEdgeAFallResult :=
  fun s henabled => exec_instr_of_decrement_column henabled (qsm_aFall s)

/-- Settles O20, as O19. -/
theorem onEdgeARiseResult : Obligations.OnEdgeARiseResult :=
  fun s henabled => exec_instr_of_decrement_column henabled (qsm_aRise s)

/-- Settles O21, as O19. -/
theorem onEdgeBFallResult : Obligations.OnEdgeBFallResult :=
  fun s henabled => exec_instr_of_increment_column henabled (qsm_bFall s)

/-- Settles O22, as O19. -/
theorem onEdgeBRiseResult : Obligations.OnEdgeBRiseResult :=
  fun s henabled => exec_instr_of_increment_column henabled (qsm_bRise s)

/-- Settles O23: the two ways an edge can fail to be enabled while the instance is there. -/
theorem onEdgeHeldOrRefusedWhenNotEnabled : Obligations.OnEdgeHeldOrRefusedWhenNotEnabled := by
  intro e s hpresent
  refine ⟨fun hactive hmasked => ?held,
    fun hinactive => exec_instr_of_inactive hpresent hinactive e⟩
  case held =>
    have hheld : exec e.instr s = .next (s.hold e) := by
      simp [exec_instr, edgeNotify, hpresent, hactive, hmasked]
    exact hheld

/-! ### Cycles -/

/-- A run of edges of any length makes their moves in turn and always completes. -/
theorem runProgram_edges {s : State} (h : EdgeEnabled s) (es : List EdgeEvent) :
    runProgram (es.map EdgeEvent.instr) s = .next (es.foldl edgeStep s) := by
  induction es generalizing s with
  | nil => rfl
  | cons e es ih =>
    rw [List.map_cons, runProgram_cons (exec_instr_eq_edgeStep h e), ih (edgeStep_enabled h e)]
    rfl

theorem edges_enabled {s : State} (h : EdgeEnabled s) (es : List EdgeEvent) :
    EdgeEnabled (es.foldl edgeStep s) := by
  induction es generalizing s with
  | nil => exact h
  | cons e es ih => exact ih (edgeStep_enabled h e)

/-- The four events of a clockwise cycle (rule R109). -/
def cwEvents : List EdgeEvent := [.aRise, .bRise, .aFall, .bFall]

/-- The four events of a counter-clockwise cycle (rule R109). -/
def ccwEvents : List EdgeEvent := [.bRise, .aRise, .bFall, .aFall]

theorem cwCycle_eq : cwCycle = cwEvents.map EdgeEvent.instr := rfl

theorem ccwCycle_eq : ccwCycle = ccwEvents.map EdgeEvent.instr := rfl

theorem setDs_self {s : State} {n : DecodeState} (h : s.ds = n) : s.setDs n = s := by
  rw [State.setDs, ← h]

/-- The decode state before a move is not in what the move leaves. -/
theorem foldl_setDs_none {s : State} {m : Mode} {d n : DecodeState} {e : EdgeEvent}
    (hm : s.mode = m) (h : qsm m d e.code = (n, some .none)) (es : List EdgeEvent) :
    (e :: es).foldl edgeStep (s.setDs d) = es.foldl edgeStep (s.setDs n) :=
  congrArg (es.foldl edgeStep) (edgeStep_of_none (by rw [setDs_mode, setDs_ds, hm, h]))

theorem foldl_setDs_increment {s : State} {m : Mode} {d n : DecodeState} {e : EdgeEvent}
    (hm : s.mode = m) (h : qsm m d e.code = (n, some .increment)) (es : List EdgeEvent) :
    (e :: es).foldl edgeStep (s.setDs d) = es.foldl edgeStep ((afterIncrement s n).setDs n) :=
  congrArg (es.foldl edgeStep) (edgeStep_of_increment (by rw [setDs_mode, setDs_ds, hm, h]))

theorem foldl_setDs_decrement {s : State} {m : Mode} {d n : DecodeState} {e : EdgeEvent}
    (hm : s.mode = m) (h : qsm m d e.code = (n, some .decrement)) (es : List EdgeEvent) :
    (e :: es).foldl edgeStep (s.setDs d) = es.foldl edgeStep ((afterDecrement s n).setDs n) :=
  congrArg (es.foldl edgeStep) (edgeStep_of_decrement (by rw [setDs_mode, setDs_ds, hm, h]))

/-- The clockwise path of the full-pulse table counts at its last step (rule R132). -/
theorem foldl_cwEvents_full {s : State} (hm : s.mode = .full) (hds : s.ds = 0) :
    cwEvents.foldl edgeStep s = afterIncrement s 0 :=
  calc cwEvents.foldl edgeStep s
      = cwEvents.foldl edgeStep (s.setDs 0) := by rw [setDs_self hds]
    _ = [EdgeEvent.bRise, .aFall, .bFall].foldl edgeStep (s.setDs 1) := foldl_setDs_none hm rfl _
    _ = [EdgeEvent.aFall, .bFall].foldl edgeStep (s.setDs 2) := foldl_setDs_none hm rfl _
    _ = [EdgeEvent.bFall].foldl edgeStep (s.setDs 3) := foldl_setDs_none hm rfl _
    _ = afterIncrement s 0 := foldl_setDs_increment hm rfl []

/-- The counter-clockwise path of the full-pulse table (rule R133). -/
theorem foldl_ccwEvents_full {s : State} (hm : s.mode = .full) (hds : s.ds = 0) :
    ccwEvents.foldl edgeStep s = afterDecrement s 0 :=
  calc ccwEvents.foldl edgeStep s
      = ccwEvents.foldl edgeStep (s.setDs 0) := by rw [setDs_self hds]
    _ = [EdgeEvent.aRise, .bFall, .aFall].foldl edgeStep (s.setDs 4) := foldl_setDs_none hm rfl _
    _ = [EdgeEvent.bFall, .aFall].foldl edgeStep (s.setDs 5) := foldl_setDs_none hm rfl _
    _ = [EdgeEvent.aFall].foldl edgeStep (s.setDs 6) := foldl_setDs_none hm rfl _
    _ = afterDecrement s 0 := foldl_setDs_decrement hm rfl []

/-- The clockwise path of the half-pulse table counts at each detent (rule R142). -/
theorem foldl_cwEvents_half {s : State} (hm : s.mode = .half) (hds : s.ds = 0) :
    cwEvents.foldl edgeStep s = afterIncrement (afterIncrement s 7) 0 :=
  have hm' : (afterIncrement s 7).mode = .half := hm
  calc cwEvents.foldl edgeStep s
      = cwEvents.foldl edgeStep (s.setDs 0) := by rw [setDs_self hds]
    _ = [EdgeEvent.bRise, .aFall, .bFall].foldl edgeStep (s.setDs 1) := foldl_setDs_none hm rfl _
    _ = [EdgeEvent.aFall, .bFall].foldl edgeStep ((afterIncrement s 7).setDs 7) :=
        foldl_setDs_increment hm rfl _
    _ = [EdgeEvent.bFall].foldl edgeStep ((afterIncrement s 7).setDs 6) :=
        foldl_setDs_none hm' rfl _
    _ = afterIncrement (afterIncrement s 7) 0 := foldl_setDs_increment hm' rfl []

/-- The counter-clockwise path of the half-pulse table (rule R143). -/
theorem foldl_ccwEvents_half {s : State} (hm : s.mode = .half) (hds : s.ds = 0) :
    ccwEvents.foldl edgeStep s = afterDecrement (afterDecrement s 7) 0 :=
  have hm' : (afterDecrement s 7).mode = .half := hm
  calc ccwEvents.foldl edgeStep s
      = ccwEvents.foldl edgeStep (s.setDs 0) := by rw [setDs_self hds]
    _ = [EdgeEvent.aRise, .bFall, .aFall].foldl edgeStep (s.setDs 2) := foldl_setDs_none hm rfl _
    _ = [EdgeEvent.bFall, .aFall].foldl edgeStep ((afterDecrement s 7).setDs 7) :=
        foldl_setDs_decrement hm rfl _
    _ = [EdgeEvent.aFall].foldl edgeStep ((afterDecrement s 7).setDs 5) :=
        foldl_setDs_none hm' rfl _
    _ = afterDecrement (afterDecrement s 7) 0 := foldl_setDs_decrement hm' rfl []

/-- Settles O28: the program is a run of edges, and the path counts once. -/
theorem clockwiseCycleIncrementsOnce : Obligations.ClockwiseCycleIncrementsOnce := by
  intro s henabled hm hds
  rw [cwCycle_eq, runProgram_edges henabled, foldl_cwEvents_full hm hds]

/-- Settles O29, as O28. -/
theorem counterClockwiseCycleDecrementsOnce : Obligations.CounterClockwiseCycleDecrementsOnce := by
  intro s henabled hm hds
  rw [ccwCycle_eq, runProgram_edges henabled, foldl_ccwEvents_full hm hds]

/-- Settles O30, as O28, with two counts on each path. -/
theorem halfPulseCycleCountsTwice : Obligations.HalfPulseCycleCountsTwice := by
  intro s henabled hm hds
  rw [cwCycle_eq, ccwCycle_eq, runProgram_edges henabled, runProgram_edges henabled,
    foldl_cwEvents_half hm hds, foldl_ccwEvents_half hm hds]
  exact ⟨rfl, rfl⟩

/-! ### Reading after edges -/

/-- `readState` reports the live record when something changed, and otherwise the local position
without a click (rule R185). -/
theorem exec_readState_result {s : State} (h : AppAdmitted s) :
    ∃ t, exec .readState s = .next t ∧ t.ds = s.ds ∧ t.live = s.live ∧ t.result =
      if s.changed = true then .read s.live true else .read ⟨s.localRec.pos, .noClick⟩ false := by
  refine ⟨_, exec_readState_of_admitted h, ?_⟩
  rw [criticalSection_read]
  cases s.changed <;> exact ⟨rfl, rfl, rfl⟩

theorem appAdmitted_of_enabled {s : State} (h : EdgeEnabled s) : AppAdmitted s := by
  obtain ⟨hpresent, hactive, -⟩ := h
  exact ⟨hpresent, by simp [hactive]⟩

/-- A run of edges and one read: the read reports what the edges left. -/
theorem runProgram_edges_read {s : State} (h : EdgeEnabled s) (es : List EdgeEvent) :
    let u := es.foldl edgeStep s
    ∃ t, runProgram (es.map EdgeEvent.instr ++ [.readState]) s = .next t ∧ t.ds = u.ds ∧
      t.live = u.live ∧ t.result =
        if u.changed = true then .read u.live true
        else .read ⟨u.localRec.pos, .noClick⟩ false := by
  obtain ⟨t, hread, hafter⟩ := exec_readState_result (appAdmitted_of_enabled (edges_enabled h es))
  exact ⟨t, by rw [runProgram_append (runProgram_edges h es), runProgram_cons hread, runProgram],
    hafter⟩

/-- One up and one down within the bounds: back again, unless the step up was lost at the bound. -/
theorem satdec_satinc {v lo hi : Int} (hlt : lo < hi) (h : InBounds v lo hi) :
    satdec (satinc v hi) lo = if v < hi then v else hi - 1 := by
  obtain ⟨hlo, hhi⟩ := h
  unfold satdec satinc
  split_ifs <;> omega

/-- Settles O31: the two cycles leave one increment and one decrement, and the read reports what the
decrement wrote. -/
theorem roundTripRestoresThePosition : Obligations.RoundTripRestoresThePosition := by
  intro s henabled hm hds hlt hpos
  have hprog : cwCycle ++ ccwCycle ++ [.readState] =
      (cwEvents ++ ccwEvents).map EdgeEvent.instr ++ [.readState] := rfl
  have hedges : (cwEvents ++ ccwEvents).foldl edgeStep s =
      afterDecrement (afterIncrement s 0) 0 := by
    rw [List.foldl_append, foldl_cwEvents_full hm hds]
    exact foldl_ccwEvents_full hm rfl
  obtain ⟨t, hrun, htds, htlive, htresult⟩ :=
    runProgram_edges_read henabled (cwEvents ++ ccwEvents)
  rw [hedges] at htds htlive htresult
  have hlive : t.live = ⟨satdec (satinc s.live.pos s.maxValue) s.minValue, .downClick⟩ := htlive
  refine ⟨t, hprog ▸ hrun, htds, ?_, ?_⟩
  · rw [hlive, satdec_satinc hlt hpos]
  · rw [htresult, hlive]
    rfl

/-! ### Sequences of edges of any length -/

/-- Settles O32: by induction on the events, one table step each. -/
theorem believedLevelsFollowActualLevels : Obligations.BelievedLevelsFollowActualLevels := by
  intro es s p henabled
  rw [runProgram_edges henabled]
  intro hnamed hp hpossible
  refine ⟨_, rfl, ?_⟩
  clear henabled
  induction es generalizing s p with
  | nil => exact ⟨hnamed, hp⟩
  | cons e es ih =>
    simp only [physicallyPossible, Bool.and_eq_true, bne_iff_ne] at hpossible
    obtain ⟨he, hes⟩ := hpossible
    have hnamed' : namedState (edgeStep s e).mode (edgeStep s e).ds = true := by
      rw [edgeStep_mode, edgeStep_ds]
      exact qsm_next_named s.mode s.ds e.code hnamed
    have hp' : believedSample (edgeStep s e).mode (edgeStep s e).ds = some (applyEvent e p) := by
      rw [edgeStep_mode, edgeStep_ds]
      exact believedSample_next hnamed hp he
    exact ih (edgeStep s e) (applyEvent e p) hnamed' hp' hes

/-- The live record after one movement within `[lo, hi]` (rule R170 steps 4 and 5). -/
def movedRecord (lo hi : Int) (r : Record) (d : Delta) : Record :=
  ⟨moved lo hi r.pos d, clickOf d⟩

/-- The live record and `changed` see nothing of an edge but the movement it makes. -/
theorem foldl_edgeStep (es : List EdgeEvent) (s : State) :
    let ms := movements s.mode s.ds es
    (es.foldl edgeStep s).live = ms.foldl (movedRecord s.minValue s.maxValue) s.live ∧
      (es.foldl edgeStep s).changed = (s.changed || !ms.isEmpty) ∧
      (es.foldl edgeStep s).localRec = s.localRec := by
  induction es generalizing s with
  | nil => simp [movements]
  | cons e es ih =>
    obtain ⟨hlive, hchanged, hlocal⟩ := ih (edgeStep s e)
    obtain ⟨n, hq | hq | hq⟩ := qsm_cases s.mode s.ds e.code
    · rw [edgeStep_of_none hq] at hlive hchanged hlocal
      simp only [movements, hq, List.foldl_cons, edgeStep_of_none hq]
      exact ⟨hlive, hchanged, hlocal⟩
    · rw [edgeStep_of_increment hq] at hlive hchanged hlocal
      simp only [movements, hq, List.foldl_cons, edgeStep_of_increment hq]
      exact ⟨hlive, by simpa using hchanged, hlocal⟩
    · rw [edgeStep_of_decrement hq] at hlive hchanged hlocal
      simp only [movements, hq, List.foldl_cons, edgeStep_of_decrement hq]
      exact ⟨hlive, by simpa using hchanged, hlocal⟩

theorem foldl_movedRecord_pos (lo hi : Int) (ms : List Delta) (r : Record) :
    (ms.foldl (movedRecord lo hi) r).pos = ms.foldl (moved lo hi) r.pos := by
  induction ms generalizing r with
  | nil => rfl
  | cons d ms ih => exact ih (movedRecord lo hi r d)

/-- Settles O40: the record read is the fold of the movements, so its click is that of the last. -/
theorem oneReadReportsTheLastDetent : Obligations.OneReadReportsTheLastDetent := by
  intro es s henabled
  obtain ⟨t, hrun, -, -, hresult⟩ := runProgram_edges_read henabled es
  refine ⟨t, hrun, ?_⟩
  obtain ⟨hlive, hchanged, hlocal⟩ := foldl_edgeStep es s
  rw [hresult, hlive, hchanged, hlocal]
  obtain hnone | ⟨ms, d, hsome⟩ := List.eq_nil_or_concat (movements s.mode s.ds es)
  · simp [hnone]
  · simp [hsome, movedRecord, foldl_movedRecord_pos]

end Sys2Proof.Proofs.EdgeOperations
end

section
/-! The two contexts (rules R70 to R80). No edge starts inside a critical section; and the
fine-grained system is simulated by whole operations, each application operation taking effect where
it is called and each `onEdge` where it starts. -/

open Sys2Proof Sys2Proof.Machine Sys2Proof.Claims
open Sys2Proof.Proofs.StateRules Sys2Proof.Proofs.ControllerApp
open Sys2Proof.Proofs.ControllerLifecycle Sys2Proof.Proofs.HostOperations
open Sys2Proof.Proofs.EdgeOperations

namespace Sys2Proof.Proofs.Atomicity

/-! ### What the steps inside and after a critical section leave alone -/

/-- The steps inside a critical section keep the mask, and neither read nor write what the adapter
holds (rules R35, R72). -/
structure KeepsAdapter (inside : State → State × Capture) : Prop where
  /-- The mask is not written inside. -/
  ien : ∀ s, (inside s).1.ien = s.ien
  /-- What is held goes through. -/
  setHeld : ∀ s es, inside (s.setHeld es) = ((inside s).1.setHeld es, (inside s).2)

theorem readInside_keepsAdapter : KeepsAdapter readInside where
  ien s := by unfold readInside; split <;> rfl
  setHeld s es := by unfold readInside; rw [setHeld_changed]; split <;> rfl

theorem reconfigureInside_keepsAdapter (lo hi v : Int) :
    KeepsAdapter (reconfigureInside lo hi v) where
  ien s := by unfold reconfigureInside; split <;> rfl
  setHeld s es := by unfold reconfigureInside; split <;> rfl

theorem insideOf_keepsAdapter {i : Instr} {inside : State → State × Capture}
    (h : insideOf i = some inside) : KeepsAdapter inside := by
  cases i <;> simp only [insideOf, Option.some.injEq, reduceCtorEq] at h <;> subst h
  case readState => exact readInside_keepsAdapter
  case setValueAndReadBoth v => exact ⟨fun _ => rfl, fun _ _ => rfl⟩
  case reconfigureBounds lo hi v => exact reconfigureInside_keepsAdapter lo hi v
  case attachCallback f ctx => exact ⟨fun _ => rfl, fun _ _ => rfl⟩

theorem afterCritical_setHeld (c : Capture) (s : State) (es : List EdgeEvent) :
    afterCritical c (s.setHeld es) = (afterCritical c s).setHeld es := by
  rcases c with (_ | _) | _ | (_ | _) | _ <;> rfl

theorem KeepsAdapter.criticalSection_setHeld {inside : State → State × Capture}
    (h : KeepsAdapter inside) (s : State) (es : List EdgeEvent) :
    criticalSection inside (s.setHeld es) = (criticalSection inside s).setHeld es := by
  have hinside : inside (s.setHeld es).interruptOff = _ := h.setHeld s.interruptOff es
  simp only [criticalSection, hinside]
  exact afterCritical_setHeld _ (inside s.interruptOff).1.interruptOn es

theorem KeepsAdapter.held {inside : State → State × Capture} (h : KeepsAdapter inside)
    (s : State) : (inside s).1.held = s.held :=
  congrArg (·.1.held) (h.setHeld s s.held)

theorem afterCritical_held (c : Capture) (s : State) : (afterCritical c s).held = s.held := by
  obtain ⟨k, r, hframe⟩ := afterCritical_frame c s
  rw [hframe]

/-! ### What a step of the fine-grained system can do -/

/-- A call starts an operation that the instance admits: one with a critical section enters it, one
without takes effect at once (rule R72). -/
theorem fineStep_call_next {i : Instr} {f g : FineState} (h : fineStep (.call i) f = .next g) :
    f.inCallback = false ∧ f.app = .idle ∧ i.event? = none ∧ ∃ t, exec i f.core = .next t ∧
      ((∃ inside, insideOf i = some inside ∧
          g = { f with core := f.core.interruptOff, app := .masked i }) ∨
        (insideOf i = none ∧ g = { f with core := t })) := by
  simp only [fineStep] at h
  split_ifs at h with hcallback hidle
  simp only [fineCall] at h
  split at h
  · cases h
  · cases h
  · cases h
  · rename_i t hevent hexec
    refine ⟨by simpa using hcallback, hidle, hevent, t, hexec, ?_⟩
    cases hinside : insideOf i <;> simp only [hinside, Host.Outcome.next.injEq] at h
    · exact .inr ⟨rfl, h.symm⟩
    · exact .inl ⟨_, rfl, h.symm⟩

/-- The application context goes through the three steps that follow the masking. -/
theorem fineStep_advance_next {f g : FineState} (h : fineStep .advance f = .next g) :
    f.inCallback = false ∧
      ((∃ i inside, f.app = .masked i ∧ insideOf i = some inside ∧
          g = { f with core := (inside f.core).1, app := .captured (inside f.core).2 }) ∨
        (∃ c, f.app = .captured c ∧ g = { f with core := f.core.interruptOn, app := .unmasked c }) ∨
        (∃ c, f.app = .unmasked c ∧
          g = { f with core := afterCritical c f.core, app := .idle })) := by
  simp only [fineStep] at h
  split_ifs at h with hcallback
  refine ⟨by simpa using hcallback, ?_⟩
  cases happ : f.app <;> simp only [fineAdvance, happ, reduceCtorEq, Host.Outcome.next.injEq] at h
  case masked i =>
    split at h
    · exact .inl ⟨i, _, rfl, ‹_›, (Host.Outcome.next.inj h).symm⟩
    · cases h
  case captured c => exact .inr (.inl ⟨c, rfl, h.symm⟩)
  case unmasked c => exact .inr (.inr ⟨c, rfl, h.symm⟩)

theorem fineStep_arrive_next {e : EdgeEvent} {f g : FineState}
    (h : fineStep (.arrive e) f = .next g) : g = { f with core := f.core.hold e } := by
  simp only [fineStep] at h
  split_ifs at h
  exact (Host.Outcome.next.inj h).symm

/-- A delivery runs the `onEdge` of the oldest notification whole, in an enabled state
(rules R161, R162, R249). -/
theorem fineStep_deliver_next {f g : FineState} (h : fineStep .deliver f = .next g) :
    EdgeEnabled f.core ∧ ∃ e rest b, f.core.held = e :: rest ∧
      g = { f with core := edgeStep (f.core.setHeld rest) e, inCallback := b } := by
  simp only [fineStep] at h
  split_ifs at h
  simp only [fineDeliver] at h
  split at h
  · rename_i e rest hactive hien hheld
    split at h
    · rename_i t hexec
      obtain ⟨hpresent, -, -⟩ := edgeNotify_next (exec_instr e _ ▸ hexec)
      have henabled : EdgeEnabled (f.core.setHeld rest) := ⟨hpresent, hactive, hien⟩
      rw [exec_instr_eq_edgeStep henabled] at hexec
      cases hexec
      exact ⟨henabled, e, rest, _, hheld, (Host.Outcome.next.inj h).symm⟩
    · cases h
    · cases h
  · cases h

theorem fineStep_callbackReturns_next {f g : FineState}
    (h : fineStep .callbackReturns f = .next g) : g = { f with inCallback := false } := by
  simp only [fineStep] at h
  split_ifs at h
  exact (Host.Outcome.next.inj h).symm

/-- A callback may not call its own instance (rule R290). -/
theorem fineStep_callbackCalls_ne_next (i : Instr) (f g : FineState) :
    fineStep (.callbackCalls i) f ≠ .next g := by
  simp only [fineStep]
  split_ifs <;> simp

theorem fineRun_cons_next {ev : FineEvent} {evs : List FineEvent} {f g : FineState}
    (h : fineRun (ev :: evs) f = .next g) :
    ∃ f', fineStep ev f = .next f' ∧ fineRun evs f' = .next g := by
  simp only [fineRun] at h
  split at h
  · exact ⟨_, ‹_›, h⟩
  · cases h
  · cases h

/-! ### The mask inside a critical section (rule R70) -/

/-- Inside a critical section delivery is masked and no `onEdge` is in progress. -/
def MaskedInside (f : FineState) : Prop :=
  ((∃ i, f.app = .masked i) ∨ ∃ c, f.app = .captured c) →
    f.core.ien = false ∧ f.inCallback = false

/-- Outside the two phases of the section there is nothing to keep. -/
theorem maskedInside_idle (s : State) (b : Bool) : MaskedInside ⟨s, .idle, b⟩ := by
  simp [MaskedInside]

theorem fineStep_keeps_maskedInside {ev : FineEvent} {f g : FineState} (hf : MaskedInside f)
    (h : fineStep ev f = .next g) : MaskedInside g := by
  cases ev with
  | call i =>
    obtain ⟨hcallback, hidle, -, t, -, ⟨inside, -, rfl⟩ | ⟨-, rfl⟩⟩ := fineStep_call_next h
    · exact fun _ => ⟨rfl, hcallback⟩
    · simp [MaskedInside, hidle]
  | advance =>
    obtain ⟨hcallback, ⟨i, inside, happ, hi, rfl⟩ | ⟨c, -, rfl⟩ | ⟨c, -, rfl⟩⟩ :=
      fineStep_advance_next h
    · obtain ⟨hmasked, -⟩ := hf (.inl ⟨i, happ⟩)
      exact fun _ => ⟨((insideOf_keepsAdapter hi).ien f.core).trans hmasked, hcallback⟩
    · simp [MaskedInside]
    · exact maskedInside_idle _ _
  | arrive e =>
    obtain rfl := fineStep_arrive_next h
    exact hf
  | deliver =>
    obtain ⟨⟨-, -, hunmasked⟩, e, rest, b, -, rfl⟩ := fineStep_deliver_next h
    intro hinside
    obtain ⟨hmasked, -⟩ := hf hinside
    exact absurd (hmasked.symm.trans hunmasked) Bool.false_ne_true
  | callbackReturns =>
    obtain rfl := fineStep_callbackReturns_next h
    intro hinside
    obtain ⟨hmasked, -⟩ := hf hinside
    exact ⟨hmasked, rfl⟩
  | callbackCalls i => exact absurd h (fineStep_callbackCalls_ne_next i f g)

theorem fineRun_keeps_maskedInside {evs : List FineEvent} {f g : FineState} (hf : MaskedInside f)
    (h : fineRun evs f = .next g) : MaskedInside g := by
  induction evs generalizing f with
  | nil => cases h; exact hf
  | cons ev evs ih =>
    obtain ⟨f', hstep, hrest⟩ := fineRun_cons_next h
    exact ih (fineStep_keeps_maskedInside hf hstep) hrest

/-- Settles O57: the mask is an invariant of every run, and a masked delivery is not enabled. -/
theorem noEdgeInsideACriticalSection : Obligations.NoEdgeInsideACriticalSection := by
  intro evs s f hrun hinside
  obtain ⟨hmasked, hcallback⟩ := fineRun_keeps_maskedInside (maskedInside_idle s false) hrun hinside
  refine ⟨hmasked, hcallback, ?_⟩
  simp [fineStep, fineDeliver, hmasked, hcallback]

/-! ### Whole operations do not see what the adapter holds -/

theorem deactivate_setHeld_nil (s : State) :
    (s.setHeld []).deactivate = s.deactivate.setHeld [] := by
  rw [deactivate_eq, deactivate_eq, setHeld_life]
  split <;> rfl

/-- An operation with a critical section is that section, whatever the adapter holds. -/
theorem exec_critical_setHeld {i : Instr} {inside : State → State × Capture} {s t : State}
    (hi : insideOf i = some inside) (h : exec i s = .next t) :
    t = criticalSection inside s ∧ ∀ es, exec i (s.setHeld es) = .next (t.setHeld es) := by
  have hkeeps := insideOf_keepsAdapter hi
  suffices hsection : t = criticalSection inside s ∧
      ∀ es, exec i (s.setHeld es) = .next (criticalSection inside (s.setHeld es)) by
    obtain ⟨rfl, hexec⟩ := hsection
    exact ⟨rfl, fun es => by rw [hexec, hkeeps.criticalSection_setHeld]⟩
  cases i <;> simp only [insideOf, Option.some.injEq, reduceCtorEq] at hi <;> subst hi
  case readState =>
    obtain ⟨hpresent, hlife, rfl⟩ := exec_readState_next h
    exact ⟨rfl, fun es => exec_readState_of_admitted (s := s.setHeld es) ⟨hpresent, hlife⟩⟩
  case setValueAndReadBoth v =>
    obtain ⟨hpresent, hlife, rfl⟩ := exec_setValueAndReadBoth_next h
    exact ⟨rfl, fun es =>
      exec_setValueAndReadBoth_of_admitted (s := s.setHeld es) ⟨hpresent, hlife⟩ v⟩
  case reconfigureBounds lo hi v =>
    obtain ⟨hpresent, hlife, rfl⟩ := exec_reconfigureBounds_next h
    exact ⟨rfl, fun es =>
      exec_reconfigureBounds_of_admitted (s := s.setHeld es) ⟨hpresent, hlife⟩ lo hi v⟩
  case attachCallback f ctx =>
    obtain ⟨hpresent, rfl⟩ := exec_attachCallback_next h
    exact ⟨rfl, fun es => exec_attachCallback_of_present (s := s.setHeld es) hpresent f ctx⟩

/-- `begin` reads neither what is held nor writes it (rule R215). -/
theorem exec_begin_setHeld {ok : Bool} {p : Sample} {s t : State}
    (h : exec (.beginOp ok p) s = .next t) (es : List EdgeEvent) :
    exec (.beginOp ok p) (s.setHeld es) = .next (t.setHeld es) := by
  obtain ⟨hpresent, -⟩ := exec_begin_next h
  cases hlife : s.life with
  | unconfigured =>
    rw [exec_begin_of_unconfigured hpresent hlife] at h
    cases h
    exact exec_begin_of_unconfigured (s := s.setHeld es) hpresent hlife ok p
  | configured =>
    rw [exec_begin_of_configured hpresent hlife] at h
    rw [exec_begin_of_configured (s := s.setHeld es) hpresent hlife, ← Host.Outcome.next.inj h,
      apply_ite (State.setHeld · es)]
    rfl
  | active =>
    rw [beginRefusedWhileActive ok p s hpresent hlife] at h
    cases h

/-- The lifecycle operations, which have no critical section (rule R72): they see nothing of what is
held, and leave it or drop it (rule R227). -/
theorem exec_lifecycle_setHeld {i : Instr} {s t : State} (hevent : i.event? = none)
    (hi : insideOf i = none) (h : exec i s = .next t) :
    exec i (s.setHeld []) = .next (t.setHeld []) ∧ t.held.Sublist s.held := by
  have hdrop : s.deactivate.held.Sublist s.held := by
    rw [deactivate_eq]
    split
    · exact List.nil_sublist _
    · exact List.Sublist.refl _
  cases i <;> simp only [Instr.event?, insideOf, reduceCtorEq] at hevent hi
  case configure lo hi v m =>
    obtain ⟨hpresent, rfl⟩ := exec_configure_next h
    refine ⟨?_, hdrop⟩
    rw [exec_configure_of_present (s := s.setHeld []) hpresent, deactivate_setHeld_nil]
    rfl
  case beginOp ok p =>
    refine ⟨exec_begin_setHeld h [], ?_⟩
    obtain ⟨-, ⟨rfl, -⟩ | ⟨-, -, -, rfl⟩⟩ := exec_begin_next h <;> exact List.Sublist.refl _
  case endOp =>
    obtain ⟨hpresent, rfl⟩ := exec_end_next h
    refine ⟨?_, hdrop⟩
    rw [exec_end_of_present (s := s.setHeld []) hpresent, deactivate_setHeld_nil]
    rfl

/-! ### An edge commutes with the steps after a critical section (rule R73) -/

theorem edgeStep_setHeld (s : State) (e : EdgeEvent) (es : List EdgeEvent) :
    edgeStep (s.setHeld es) e = (edgeStep s e).setHeld es := by
  obtain ⟨n, hq | hq | hq⟩ := qsm_cases s.mode s.ds e.code
  · rw [edgeStep_of_none hq, edgeStep_of_none (by exact hq)]; rfl
  · rw [edgeStep_of_increment hq, edgeStep_of_increment (by exact hq)]; rfl
  · rw [edgeStep_of_decrement hq, edgeStep_of_decrement (by exact hq)]; rfl

/-- The steps after the section write the local copy and the result, which no edge reads or writes,
and read nothing that an edge writes. -/
theorem edgeStep_afterCritical (c : Capture) (s : State) (e : EdgeEvent) :
    edgeStep (afterCritical c s) e = afterCritical c (edgeStep s e) := by
  have hmode : (afterCritical c s).mode = s.mode := by
    obtain ⟨k, r, hframe⟩ := afterCritical_frame c s
    rw [hframe]
  have hds : (afterCritical c s).ds = s.ds := by
    obtain ⟨k, r, hframe⟩ := afterCritical_frame c s
    rw [hframe]
  obtain ⟨n, hq | hq | hq⟩ := qsm_cases s.mode s.ds e.code
  · rw [edgeStep_of_none hq, edgeStep_of_none (by rw [hmode, hds, hq])]
    rcases c with (_ | _) | _ | (_ | _) | _ <;> rfl
  · rw [edgeStep_of_increment hq, edgeStep_of_increment (by rw [hmode, hds, hq])]
    rcases c with (_ | _) | _ | (_ | _) | _ <;> rfl
  · rw [edgeStep_of_decrement hq, edgeStep_of_decrement (by rw [hmode, hds, hq])]
    rcases c with (_ | _) | _ | (_ | _) | _ <;> rfl

theorem afterCritical_enabled {s : State} (h : EdgeEnabled s) (c : Capture) :
    EdgeEnabled (afterCritical c s) := by
  obtain ⟨k, r, hframe⟩ := afterCritical_frame c s
  rw [hframe]
  exact h

/-! ### The simulation -/

/-- The state once the operation in progress is finished, no edge coming in between. -/
def settled (f : FineState) : State :=
  match f.app with
  | .idle => f.core
  | .masked i =>
      match insideOf i with
      | some inside => afterCritical (inside f.core).2 (inside f.core).1.interruptOn
      | none => f.core
  | .captured c => afterCritical c f.core.interruptOn
  | .unmasked c => afterCritical c f.core

/-- The whole operations `prog` do what the events `evs` did between `f` and `g`, up to what the
adapter holds; the edges delivered, and those still held, are among those held and arrived. -/
structure Simulates (prog : List Instr) (evs : List FineEvent) (f g : FineState) : Prop where
  /-- The same registers, results and calls. -/
  runs : runProgram prog ((settled f).setHeld []) = .next ((settled g).setHeld [])
  /-- The application's operations stand as called. -/
  calls : hostOps prog = callsOf evs
  /-- The edges stand in the order of their arrival. -/
  edges : (edgesOf prog ++ g.core.held).Sublist (f.core.held ++ arrivalsOf evs)
  /-- One edge for each `onEdge` that started. -/
  deliveries : (edgesOf prog).length = deliveriesIn evs

theorem Simulates.refl (f : FineState) : Simulates [] [] f f where
  runs := rfl
  calls := rfl
  edges := by simp [edgesOf, arrivalsOf]
  deliveries := rfl

theorem Simulates.trans {p q : List Instr} {ds es : List FineEvent} {f g h : FineState}
    (hp : Simulates p ds f g) (hq : Simulates q es g h) : Simulates (p ++ q) (ds ++ es) f h where
  runs := (runProgram_append hp.runs).trans hq.runs
  calls := by
    have hcalls := congrArg₂ (· ++ ·) hp.calls hq.calls
    simpa [hostOps, callsOf] using hcalls
  edges := by
    have hlast := hq.edges.append_left (edgesOf p)
    have hfirst := hp.edges.append_right (arrivalsOf es)
    simp only [edgesOf, arrivalsOf, List.filterMap_append, List.append_assoc] at hlast hfirst ⊢
    exact hlast.trans hfirst
  deliveries := by
    have hlength := congrArg₂ (· + ·) hp.deliveries hq.deliveries
    simpa [edgesOf, deliveriesIn] using hlength

/-- A step that no whole operation stands for: the application goes on, or a callback returns. -/
theorem Simulates.silent {ev : FineEvent} {f g : FineState}
    (hsettled : (settled g).setHeld [] = (settled f).setHeld [])
    (hheld : g.core.held = f.core.held ++ arrivalsOf [ev]) (hcall : callsOf [ev] = [])
    (hdeliver : deliveriesIn [ev] = 0) : Simulates [] [ev] f g where
  runs := congrArg _ hsettled.symm
  calls := hcall.symm
  edges := by simp [edgesOf, hheld]
  deliveries := hdeliver.symm

/-- What is still to arrive does not change what the operation in progress does. -/
theorem settled_setHeld (f : FineState) (es : List EdgeEvent) :
    settled { f with core := f.core.setHeld es } = (settled f).setHeld es := by
  obtain ⟨core, app, inCallback⟩ := f
  cases app with
  | idle => rfl
  | masked i =>
    cases hi : insideOf i with
    | none => simp only [settled, hi]
    | some inside =>
      simp only [settled, hi, (insideOf_keepsAdapter hi).setHeld]
      exact afterCritical_setHeld _ (inside core).1.interruptOn es
  | captured c => exact afterCritical_setHeld c core.interruptOn es
  | unmasked c => exact afterCritical_setHeld c core es

theorem simulates_call {i : Instr} {f g : FineState} (h : fineStep (.call i) f = .next g) :
    Simulates [i] [.call i] f g := by
  obtain ⟨-, hidle, hevent, t, hexec, hg⟩ := fineStep_call_next h
  obtain ⟨core, app, inCallback⟩ := f
  obtain rfl : app = .idle := hidle
  suffices heffect : exec i (core.setHeld []) = .next ((settled g).setHeld []) ∧
      g.core.held.Sublist core.held by
    obtain ⟨hruns, hheld⟩ := heffect
    exact {
      runs := runProgram_cons hruns
      calls := by simp [hostOps, callsOf, hevent]
      edges := by simpa [edgesOf, arrivalsOf, hevent] using hheld
      deliveries := by simp [edgesOf, deliveriesIn, hevent] }
  obtain ⟨inside, hi, rfl⟩ | ⟨hi, rfl⟩ := hg
  · obtain ⟨rfl, hexec'⟩ := exec_critical_setHeld hi hexec
    refine ⟨?_, List.Sublist.refl _⟩
    simpa only [settled, hi, criticalSection] using hexec' []
  · exact exec_lifecycle_setHeld hevent hi hexec

theorem simulates_advance {f g : FineState} (h : fineStep .advance f = .next g) :
    Simulates [] [.advance] f g := by
  obtain ⟨core, app, inCallback⟩ := f
  obtain ⟨-, ⟨i, inside, happ, hi, rfl⟩ | ⟨c, happ, rfl⟩ | ⟨c, happ, rfl⟩⟩ :=
    fineStep_advance_next h <;> dsimp only at happ <;> subst happ
  · refine .silent (by simp only [settled, hi]) ?_ rfl rfl
    simpa [arrivalsOf] using (insideOf_keepsAdapter hi).held core
  · exact .silent rfl (List.append_nil _).symm rfl rfl
  · refine .silent rfl ?_ rfl rfl
    simpa [arrivalsOf] using afterCritical_held c core

theorem simulates_arrive {e : EdgeEvent} {f g : FineState} (h : fineStep (.arrive e) f = .next g) :
    Simulates [] [.arrive e] f g := by
  obtain rfl := fineStep_arrive_next h
  have hsettled : settled { f with core := f.core.hold e } =
      (settled f).setHeld (f.core.held ++ [e]) := settled_setHeld f (f.core.held ++ [e])
  have hforget := congrArg (State.setHeld · []) hsettled
  exact .silent hforget rfl rfl rfl

/-- An edge that starts while an application operation is past its critical section takes effect
after that operation. -/
theorem settled_deliver {f : FineState} (hf : MaskedInside f) (h : EdgeEnabled f.core)
    (e : EdgeEvent) (rest : List EdgeEvent) (b : Bool) :
    EdgeEnabled (settled f) ∧
      settled { f with core := edgeStep (f.core.setHeld rest) e, inCallback := b } =
        (edgeStep (settled f) e).setHeld rest := by
  obtain ⟨-, -, hunmasked⟩ := id h
  obtain ⟨core, app, inCallback⟩ := f
  cases app with
  | idle => exact ⟨h, edgeStep_setHeld core e rest⟩
  | masked i =>
    obtain ⟨hmasked, -⟩ := hf (.inl ⟨i, rfl⟩)
    exact absurd (hmasked.symm.trans hunmasked) Bool.false_ne_true
  | captured c =>
    obtain ⟨hmasked, -⟩ := hf (.inr ⟨c, rfl⟩)
    exact absurd (hmasked.symm.trans hunmasked) Bool.false_ne_true
  | unmasked c =>
    refine ⟨afterCritical_enabled h c, ?_⟩
    simp only [settled, edgeStep_setHeld, afterCritical_setHeld, edgeStep_afterCritical]

theorem simulates_deliver {f g : FineState} (hf : MaskedInside f)
    (h : fineStep .deliver f = .next g) : ∃ e : EdgeEvent, Simulates [e.instr] [.deliver] f g := by
  obtain ⟨henabled, e, rest, b, hheld, rfl⟩ := fineStep_deliver_next h
  obtain ⟨henabled', hsettled⟩ := settled_deliver hf henabled e rest b
  have hexec : exec e.instr ((settled f).setHeld []) =
      .next ((edgeStep (settled f) e).setHeld []) := by
    rw [exec_instr_eq_edgeStep (by exact henabled'), edgeStep_setHeld]
  exact ⟨e, {
    runs := by rw [runProgram_cons hexec, hsettled]; rfl
    calls := by simp [hostOps, callsOf]
    edges := by simp [edgesOf, arrivalsOf, edgeStep_setHeld, hheld]
    deliveries := by simp [edgesOf, deliveriesIn] }⟩

theorem fineStep_simulated {ev : FineEvent} {f g : FineState} (hf : MaskedInside f)
    (h : fineStep ev f = .next g) : ∃ prog, Simulates prog [ev] f g := by
  cases ev with
  | call i => exact ⟨_, simulates_call h⟩
  | advance => exact ⟨_, simulates_advance h⟩
  | arrive e => exact ⟨_, simulates_arrive h⟩
  | deliver =>
    obtain ⟨e, hsim⟩ := simulates_deliver hf h
    exact ⟨_, hsim⟩
  | callbackReturns =>
    obtain rfl := fineStep_callbackReturns_next h
    exact ⟨[], .silent rfl (List.append_nil _).symm rfl rfl⟩
  | callbackCalls i => exact absurd h (fineStep_callbackCalls_ne_next i f g)

theorem fineRun_simulated {evs : List FineEvent} {f g : FineState} (hf : MaskedInside f)
    (h : fineRun evs f = .next g) : ∃ prog, Simulates prog evs f g := by
  induction evs generalizing f with
  | nil =>
    cases h
    exact ⟨[], .refl _⟩
  | cons ev evs ih =>
    obtain ⟨f', hstep, hrest⟩ := fineRun_cons_next h
    obtain ⟨p, hp⟩ := fineStep_simulated hf hstep
    obtain ⟨q, hq⟩ := ih (fineStep_keeps_maskedInside hf hstep) hrest
    exact ⟨p ++ q, hp.trans hq⟩

/-- Settles O58: the simulating program, read where no operation is in progress, so that nothing is
left to settle at either end. -/
theorem atomicOperationsAreExact : Obligations.AtomicOperationsAreExact := by
  intro evs s f hrun hidle
  obtain ⟨prog, hsim⟩ := fineRun_simulated (maskedInside_idle s false) hrun
  have hsettled : settled f = f.core := by simp only [settled, hidle]
  exact ⟨prog, hsettled ▸ hsim.runs, hsim.calls,
    (List.sublist_append_left _ _).trans hsim.edges, hsim.deliveries⟩

end Sys2Proof.Proofs.Atomicity
end

section
/-! Steps and the invariants of rule R34: what a step selects, and that every operation, and so
every step, keeps the invariants and the widths of the positions. -/

open Sys2Proof Sys2Proof.Machine
open Sys2Proof.Proofs.StateRules Sys2Proof.Proofs.ControllerEdge
open Sys2Proof.Proofs.ControllerLifecycle Sys2Proof.Proofs.HostOperations
open Sys2Proof.Proofs.EdgeOperations Sys2Proof.Proofs.Encoding

namespace Sys2Proof.Proofs.Invariants

/-! ### What a step selects -/

theorem select_of_deliverable {s : State} {e : EdgeEvent} {rest : List EdgeEvent}
    (h : EdgeEnabled s) (hheld : s.held = e :: rest) :
    select s = .run e.instr (s.setHeld rest) := by
  obtain ⟨hpresent, hactive, hien⟩ := h
  simp only [select, hheld, hactive, hien, hpresent]

/-- What is held stands back while nothing can be delivered (rules R249, R258). -/
theorem select_of_blocked {s : State} (h : s.held = [] ∨ ¬ EdgeEnabled s) :
    select s = selectInput s := by
  unfold select
  split
  · rfl
  · split
    · rename_i hcons _ _ _ hactive hien hpresent
      obtain hnil | hblocked := h
      · cases hcons.symm.trans hnil
      · exact absurd ⟨hpresent, hactive, hien⟩ hblocked
    · rfl

theorem step_operation {s : State} {port : Port} {bits : List Bool} {rest : List Input} {i : Instr}
    (h : s.held = [] ∨ ¬ EdgeEnabled s) (hinbox : s.inbox = .operation port bits :: rest)
    (hdecode : decode Config.positionWidth port bits = .ok i) :
    step s = exec i (s.setInbox rest) := by
  simp only [step, select_of_blocked h, selectInput, hinbox, hdecode]

theorem step_malformed {s : State} {port : Port} {bits : List Bool} {rest : List Input}
    {e : DecodeError} (h : s.held = [] ∨ ¬ EdgeEnabled s)
    (hinbox : s.inbox = .operation port bits :: rest)
    (hdecode : decode Config.positionWidth port bits = .error e) :
    step s = .refused (.malformed e) := by
  simp only [step, select_of_blocked h, selectInput, hinbox, hdecode]

/-- One step is idle, a delivery, an operation that was decoded, or the destruction. -/
theorem step_next {s t : State} (h : step s = .next t) :
    t = s ∨
    (∃ (e : EdgeEvent) (rest : List EdgeEvent),
      EdgeEnabled s ∧ exec e.instr (s.setHeld rest) = .next t) ∨
    (∃ port bits rest i, decode Config.positionWidth port bits = .ok i ∧
      exec i (s.setInbox rest) = .next t) ∨
    (∃ rest, t = (s.setInbox rest).destroy) := by
  by_cases hblocked : s.held = [] ∨ ¬ EdgeEnabled s
  · simp only [step, select_of_blocked hblocked] at h
    cases hinbox : s.inbox with
    | nil =>
      simp only [selectInput, hinbox] at h
      exact .inl (Host.Outcome.next.inj h).symm
    | cons input rest =>
      cases input with
      | operation port bits =>
        cases hdecode : decode Config.positionWidth port bits with
        | ok i =>
          simp only [selectInput, hinbox, hdecode] at h
          exact .inr (.inr (.inl ⟨port, bits, rest, i, hdecode, h⟩))
        | error e => simp [selectInput, hinbox, hdecode] at h
      | destroy =>
        cases hdestroyed : s.destroyed with
        | true => simp [selectInput, hinbox, hdestroyed] at h
        | false =>
          simp only [selectInput, hinbox, hdestroyed] at h
          exact .inr (.inr (.inr ⟨rest, (Host.Outcome.next.inj h).symm⟩))
  · obtain ⟨hheld, henabled⟩ := not_or.mp hblocked
    obtain ⟨e, rest, hcons⟩ := List.exists_cons_of_ne_nil hheld
    have henabled := not_not.mp henabled
    simp only [step, select_of_deliverable henabled hcons] at h
    exact .inr (.inl ⟨e, rest, henabled, h⟩)

/-- Settles O5: with delivery blocked the first input is selected. -/
theorem stepRunsTheDecodedOperation : Obligations.StepRunsTheDecodedOperation :=
  fun _ _ _ _ _ hblocked hinbox hdecode => step_operation hblocked hinbox hdecode

/-- Settles O6: the held notification is selected before any input. -/
theorem stepDeliversHeldEdgesFirst : Obligations.StepDeliversHeldEdgesFirst := by
  intro s e rest henabled hheld
  simp only [step, select_of_deliverable henabled hheld]
  rfl

/-- Settles O7: the word's bits stand first in the inbox, and nothing is held before them. -/
theorem stepRunsATableWord : Obligations.StepRunsATableWord := by
  intro s nbits w i h
  have hdecode : decode Config.positionWidth (tableInput Config.positionWidth nbits w).1
      (tableInput Config.positionWidth nbits w).2 = .ok i := by
    simp only [decodeTableWord] at h
    cases hd : decode Config.positionWidth (tableInput Config.positionWidth nbits w).1
        (tableInput Config.positionWidth nbits w).2 with
    | error e => simp [hd, Except.toOption] at h
    | ok j => simpa [hd, Except.toOption] using h
  exact step_operation (.inl rfl) rfl hdecode

/-- Settles O8: the input is selected and refused; the reserved selector is met before any
operand. -/
theorem malformedInputIsRefused : Obligations.MalformedInputIsRefused := by
  refine ⟨fun _ _ _ _ _ hblocked hinbox hdecode => step_malformed hblocked hinbox hdecode,
    fun W bits => ?_⟩
  simp only [decode, decodeHost, takeBits_bitsOf_append]
  rfl

/-- Every HOST operation asks first whether the instance is there (rules R210, R228). -/
theorem exec_host_admission {i : Instr} (he : i.event? = none) (s : State) :
    ∃ k, exec i s = admitAlways s k := by
  cases i <;> simp only [Instr.event?, reduceCtorEq] at he
  case configure | beginOp | endOp | attachCallback =>
    simp only [exec, execConfigure, execBegin, execEnd, execAttachCallback]
    exact ⟨_, rfl⟩
  case readState | setValueAndReadBoth | reconfigureBounds =>
    simp only [exec, execReadState, execSetValueAndReadBoth, execReconfigureBounds, admitConfigured]
    exact ⟨_, rfl⟩

/-- A destroyed instance admits no operation (rule R228). -/
theorem exec_of_destroyed {s : State} (hdestroyed : s.destroyed = true) (i : Instr) :
    exec i s = .refused .instanceDestroyed := by
  cases he : i.event? with
  | some e => simp [instr_of_event? he, exec_instr, edgeNotify, hdestroyed]
  | none =>
    obtain ⟨k, hadmit⟩ := exec_host_admission he s
    simp [hadmit, admitAlways, hdestroyed]

/-- Settles O9: destruction deactivates first, and sets the flag that every admission asks for. -/
theorem destructionEndsTheInstance : Obligations.DestructionEndsTheInstance := by
  refine ⟨fun s rest hpresent hblocked hinbox => ⟨(s.setInbox rest).destroy, ?_, rfl, ?_⟩,
    fun i s hdestroyed => exec_of_destroyed hdestroyed i⟩
  · simp [step, select_of_blocked hblocked, selectInput, hinbox, hpresent]
  · exact deactivate_life_ne_active (s.setInbox rest)

/-- Settles O1: the values of reset, the refusal of every edge while not Active, the idle step. -/
theorem resetIsInert : Obligations.ResetIsInert :=
  ⟨rfl, rfl, rfl, exec_instr_of_inactive rfl (by decide), rfl⟩

/-- Settles O2: after reset each item is about a register with no value yet, except the mask and
what is held. -/
theorem resetMeetsTheInvariants : Obligations.ResetMeetsTheInvariants :=
  have hlife : State.reset.life = .unconfigured := rfl
  ⟨{  bounds := by simp [BoundsValidWhenActive, hlife]
      positions := by simp [PositionsInBounds, hlife]
      current := by simp [LocalIsCurrent, hlife]
      pending := by simp [ClickIsPending, hlife]
      named := by simp [DecodeStateIsNamed, hlife]
      unmasked := rfl
      quiet := fun _ => rfl }, fun h => absurd hlife h⟩

/-! ### The invariants, operation by operation -/

/-- An installed position with no click meets the items that speak of positions and clicks. -/
theorem inv_of_installed {t : State} {v : Int} (hlive : t.live = ⟨v, .noClick⟩)
    (hlocal : t.localRec = ⟨v, .noClick⟩) (hchanged : t.changed = false)
    (hv : t.minValue < t.maxValue → InBounds v t.minValue t.maxValue)
    (hbounds : BoundsValidWhenActive t) (hnamed : DecodeStateIsNamed t)
    (hunmasked : DeliveryUnmasked t) (hquiet : NothingHeldWhenInactive t) : Inv t where
  bounds := hbounds
  positions _ hlt := by rw [hlive, hlocal]; exact ⟨hv hlt, hv hlt⟩
  current _ _ := by rw [hlive, hlocal]
  pending _ h := by simp [hchanged] at h
  named := hnamed
  unmasked := hunmasked
  quiet := hquiet

theorem inBounds_clamp {v lo hi : Int} (h : lo < hi) : InBounds (clamp v lo hi) lo hi :=
  clamp_mem h.le

theorem inv_returning {s : State} (h : Inv s) (r : Result) : Inv (s.returning r) :=
  ⟨h.bounds, h.positions, h.current, h.pending, h.named, h.unmasked, h.quiet⟩

theorem inv_setInbox {s : State} (h : Inv s) (is : List Input) : Inv (s.setInbox is) :=
  ⟨h.bounds, h.positions, h.current, h.pending, h.named, h.unmasked, h.quiet⟩

theorem inv_setHeld {s : State} (h : Inv s) (hactive : s.life = .active) (es : List EdgeEvent) :
    Inv (s.setHeld es) :=
  ⟨h.bounds, h.positions, h.current, h.pending, h.named, h.unmasked, fun hl => absurd hactive hl⟩

theorem inv_deactivate {s : State} (h : Inv s) : Inv s.deactivate := by
  rw [deactivate_eq]
  split
  · have hlife : s.life ≠ .unconfigured := by simp [*]
    exact {
      bounds := by simp [BoundsValidWhenActive]
      positions := fun _ => h.positions hlife
      current := fun _ => h.current hlife
      pending := fun _ => h.pending hlife
      named := fun _ => h.named hlife
      unmasked := h.unmasked
      quiet := fun _ => rfl }
  · exact h

theorem inv_destroy {s : State} (h : Inv s) : Inv s.destroy :=
  have h := inv_deactivate h
  ⟨h.bounds, h.positions, h.current, h.pending, h.named, h.unmasked, h.quiet⟩

/-- An edge of an Active instance: the position moves within the bounds, a delta leaves its click,
and the tables lead from named states to named states. -/
theorem inv_edgeStep {s : State} (h : Inv s) (hactive : s.life = .active) (e : EdgeEvent) :
    Inv (edgeStep s e) := by
  have hlife : s.life ≠ .unconfigured := by simp [hactive]
  obtain ⟨hlive, hlocal⟩ := h.positions hlife (h.bounds hactive)
  have hnext := qsm_next_named s.mode s.ds e.code (h.named hlife)
  obtain ⟨n, hq | hq | hq⟩ := qsm_cases s.mode s.ds e.code <;> rw [hq] at hnext
  · rw [edgeStep_of_none hq]
    exact ⟨h.bounds, h.positions, h.current, h.pending, fun _ => hnext, h.unmasked, h.quiet⟩
  · rw [edgeStep_of_increment hq]
    exact ⟨h.bounds, fun _ _ => ⟨satinc_mem hlive, hlocal⟩, by simp [LocalIsCurrent],
      by simp [ClickIsPending], fun _ => hnext, h.unmasked, h.quiet⟩
  · rw [edgeStep_of_decrement hq]
    exact ⟨h.bounds, fun _ _ => ⟨satdec_mem hlive, hlocal⟩, by simp [LocalIsCurrent],
      by simp [ClickIsPending], fun _ => hnext, h.unmasked, h.quiet⟩

theorem inv_read {s : State} (h : Inv s) (hlife : s.life ≠ .unconfigured) :
    Inv (criticalSection readInside s) := by
  rw [criticalSection_read]
  cases hchanged : s.changed
  · exact ⟨h.bounds, h.positions, fun _ _ => h.current hlife hchanged, by simp [ClickIsPending],
      h.named, rfl, h.quiet⟩
  · refine ⟨h.bounds, fun _ hlt => ?_, fun _ _ => rfl, by simp [ClickIsPending], h.named, rfl,
      h.quiet⟩
    obtain ⟨hlive, -⟩ := h.positions hlife hlt
    exact ⟨hlive, hlive⟩

theorem inv_reconfigure {s : State} (h : Inv s) (lo hi v : Int) :
    Inv (criticalSection (reconfigureInside lo hi v) s) := by
  by_cases hlt : lo < hi
  · rw [criticalSection_reconfigure hlt]
    exact inv_of_installed rfl rfl rfl inBounds_clamp (fun _ => hlt) h.named rfl h.quiet
  · rw [criticalSection_reconfigure_fails hlt]
    exact ⟨h.bounds, h.positions, h.current, h.pending, h.named, rfl, h.quiet⟩

/-- Every whole operation keeps the invariants of rule R34. -/
theorem exec_keeps_inv {i : Instr} {s t : State} (h : Inv s) (hexec : exec i s = .next t) :
    Inv t := by
  cases he : i.event? with
  | some e =>
    obtain ⟨⟨-, hactive, -⟩, rfl⟩ := exec_edge_of_unmasked he h.unmasked hexec
    exact inv_edgeStep h hactive e
  | none =>
    cases i <;> simp only [Instr.event?, reduceCtorEq] at he
    case configure lo hi v m =>
      obtain ⟨-, rfl⟩ := exec_configure_next hexec
      have hdeactivated := inv_deactivate h
      exact inv_of_installed rfl rfl rfl inBounds_clamp (by simp [BoundsValidWhenActive])
        (fun _ => startState_named m) hdeactivated.unmasked
        (fun _ => hdeactivated.quiet (deactivate_life_ne_active s))
    case beginOp ok p =>
      obtain ⟨-, ⟨rfl, -⟩ | ⟨-, hlife, hlt, rfl⟩⟩ := exec_begin_next hexec
      · exact inv_returning h _
      · have hlife' : s.life ≠ .unconfigured := by simp [hlife]
        exact {
          bounds := fun _ => hlt
          positions := fun _ => h.positions hlife'
          current := fun _ => h.current hlife'
          pending := fun _ => h.pending hlife'
          named := fun _ => seed_named s.mode p
          unmasked := h.unmasked
          quiet := by simp [NothingHeldWhenInactive] }
    case endOp =>
      obtain ⟨-, rfl⟩ := exec_end_next hexec
      exact inv_returning (inv_deactivate h) _
    case readState =>
      obtain ⟨-, hlife, rfl⟩ := exec_readState_next hexec
      exact inv_read h hlife
    case setValueAndReadBoth v =>
      obtain ⟨-, -, rfl⟩ := exec_setValueAndReadBoth_next hexec
      rw [criticalSection_setValue]
      exact inv_of_installed rfl rfl rfl inBounds_clamp h.bounds h.named rfl h.quiet
    case reconfigureBounds lo hi v =>
      obtain ⟨-, -, rfl⟩ := exec_reconfigureBounds_next hexec
      exact inv_reconfigure h lo hi v
    case attachCallback f ctx =>
      obtain ⟨-, rfl⟩ := exec_attachCallback_next hexec
      rw [criticalSection_attach]
      exact ⟨h.bounds, h.positions, h.current, h.pending, h.named, rfl, h.quiet⟩

/-! ### The widths of the positions (rule R11) -/

/-- Also between invalid bounds a clamped value is one of three that fit (rule R212). -/
theorem fitsWidth_clamp {W : Nat} {v lo hi : Int} (hlo : FitsWidth W lo) (hhi : FitsWidth W hi)
    (hv : FitsWidth W v) : FitsWidth W (clamp v lo hi) := by
  obtain h | h | h := clamp_cases v lo hi <;> rwa [h]

theorem fit_deactivate {W : Nat} {s : State} (h : RegistersFit W s) :
    RegistersFit W s.deactivate := by
  rw [deactivate_eq]
  split
  · exact fun _ => h (by simp [*])
  · exact h

/-- An edge leaves positions within bounds that it does not write. -/
theorem fit_edgeStep {W : Nat} {s : State} (hinv : Inv s) (hactive : s.life = .active)
    (h : RegistersFit W s) (e : EdgeEvent) : RegistersFit W (edgeStep s e) := by
  intro hlife
  obtain ⟨hmin, hmax, -, -⟩ := h (by simp [hactive])
  have hbounds : (edgeStep s e).minValue < (edgeStep s e).maxValue := by
    simpa using hinv.bounds hactive
  obtain ⟨hlive, hlocal⟩ := (inv_edgeStep hinv hactive e).positions hlife hbounds
  rw [edgeStep_minValue, edgeStep_maxValue] at hlive hlocal ⊢
  exact ⟨hmin, hmax, fitsWidth_of_inBounds hlive hmin hmax, fitsWidth_of_inBounds hlocal hmin hmax⟩

theorem fit_read {W : Nat} {s : State} (h : RegistersFit W s) :
    RegistersFit W (criticalSection readInside s) := by
  rw [criticalSection_read]
  cases s.changed
  · exact h
  · intro hlife
    obtain ⟨hmin, hmax, hlive, -⟩ := h hlife
    exact ⟨hmin, hmax, hlive, hlive⟩

theorem fit_reconfigure {W : Nat} {s : State} (h : RegistersFit W s) {lo hi v : Int}
    (hlo : FitsWidth W lo) (hhi : FitsWidth W hi) (hv : FitsWidth W v) :
    RegistersFit W (criticalSection (reconfigureInside lo hi v) s) := by
  by_cases hlt : lo < hi
  · rw [criticalSection_reconfigure hlt]
    have hclamp := fitsWidth_clamp hlo hhi hv
    exact fun _ => ⟨hlo, hhi, hclamp, hclamp⟩
  · rw [criticalSection_reconfigure_fails hlt]
    exact h

/-- Settles O4: the operations write operands, clamped operands, and positions within the bounds. -/
theorem positionsFitEveryWidth : Obligations.PositionsFitEveryWidth := by
  intro W i s t _ hwf hinv h hexec
  cases he : i.event? with
  | some e =>
    obtain ⟨⟨-, hactive, -⟩, rfl⟩ := exec_edge_of_unmasked he hinv.unmasked hexec
    exact fit_edgeStep hinv hactive h e
  | none =>
    cases i <;> simp only [Instr.event?, reduceCtorEq] at he
    case configure lo hi v m =>
      simp only [Instr.wellFormed, Bool.and_eq_true, decide_eq_true_eq] at hwf
      obtain ⟨⟨hlo, hhi⟩, hv⟩ := hwf
      obtain ⟨-, rfl⟩ := exec_configure_next hexec
      have hclamp := fitsWidth_clamp hlo hhi hv
      exact fun _ => ⟨hlo, hhi, hclamp, hclamp⟩
    case beginOp ok p =>
      obtain ⟨-, ⟨rfl, -⟩ | ⟨-, hlife, -, rfl⟩⟩ := exec_begin_next hexec
      · exact h
      · exact fun _ => h (by simp [hlife])
    case endOp =>
      obtain ⟨-, rfl⟩ := exec_end_next hexec
      exact fit_deactivate h
    case readState =>
      obtain ⟨-, -, rfl⟩ := exec_readState_next hexec
      exact fit_read h
    case setValueAndReadBoth v =>
      obtain ⟨-, hlife, rfl⟩ := exec_setValueAndReadBoth_next hexec
      obtain ⟨hmin, hmax, -, -⟩ := h hlife
      have hclamp := fitsWidth_clamp hmin hmax (of_decide_eq_true hwf)
      rw [criticalSection_setValue]
      exact fun _ => ⟨hmin, hmax, hclamp, hclamp⟩
    case reconfigureBounds lo hi v =>
      simp only [Instr.wellFormed, Bool.and_eq_true, decide_eq_true_eq] at hwf
      obtain ⟨⟨hlo, hhi⟩, hv⟩ := hwf
      obtain ⟨-, -, rfl⟩ := exec_reconfigureBounds_next hexec
      exact fit_reconfigure h hlo hhi hv
    case attachCallback f ctx =>
      obtain ⟨-, rfl⟩ := exec_attachCallback_next hexec
      rw [criticalSection_attach]
      exact h

/-- Settles O3: a step is idle, one operation whose operands fit because they were decoded, or the
destruction. -/
theorem everyStepKeepsTheInvariants : Obligations.EveryStepKeepsTheInvariants := by
  intro s t hinv hfit hstep
  have hexec {i : Instr} {u : State} (hwf : i.wellFormed Config.positionWidth = true)
      (hu : Inv u) (hufit : RegistersFit Config.positionWidth u) (h : exec i u = .next t) :
      Inv t ∧ RegistersFit Config.positionWidth t :=
    ⟨exec_keeps_inv hu h, positionsFitEveryWidth _ i u t (by decide) hwf hu hufit h⟩
  obtain rfl | ⟨e, rest, ⟨-, hactive, -⟩, h⟩ | ⟨port, bits, rest, i, hdecode, h⟩ | ⟨rest, rfl⟩ :=
    step_next hstep
  · exact ⟨hinv, hfit⟩
  · exact hexec (by cases e <;> rfl) (inv_setHeld hinv hactive rest) hfit h
  · obtain ⟨hwf, -⟩ := encodeOfDecode _ port bits i (by decide) hdecode
    exact hexec hwf (inv_setInbox hinv rest) hfit h
  · exact ⟨inv_destroy (inv_setInbox hinv rest), fit_deactivate (s := s.setInbox rest) hfit⟩

end Sys2Proof.Proofs.Invariants
end

section
/-! Rules over all operations: the access matrix (rule R33), the lifecycle (R21), the mode (R22),
the callback (R174, R255), clicks (R183, R187), and that nothing specified depends on what reset
leaves open (R38). -/

open Sys2Proof Sys2Proof.Machine Sys2Proof.Claims
open Sys2Proof.Proofs.StateRules Sys2Proof.Proofs.ControllerApp Sys2Proof.Proofs.ControllerEdge
open Sys2Proof.Proofs.ControllerLifecycle Sys2Proof.Proofs.Exceptions
open Sys2Proof.Proofs.HostOperations Sys2Proof.Proofs.EdgeOperations
open Sys2Proof.Proofs.Invariants

namespace Sys2Proof.Proofs.AccessMatrix

/-! ### The frame of each operation: the fields it may write, all others as they were -/

theorem exec_edge_frame {i : Instr} {e : EdgeEvent} {s t : State} (he : i.event? = some e)
    (h : exec i s = .next t) : ∃ ds live changed held calls, t =
      { s with ds := ds, live := live, changed := changed, held := held, calls := calls } := by
  obtain ⟨-, -, ⟨hien, -⟩ | ⟨-, rfl⟩⟩ := exec_edge_next he h
  · obtain ⟨-, rfl⟩ := exec_edge_of_unmasked he hien h
    obtain ⟨ds, live, changed, calls, hframe⟩ := edgeStep_frame s e
    exact ⟨ds, live, changed, s.held, calls, hframe⟩
  · exact ⟨_, _, _, _, _, rfl⟩

theorem exec_configure_frame {lo hi v : Int} {m : Mode} {s t : State}
    (h : exec (.configure lo hi v m) s = .next t) : ∃ live loc held result, t =
      { s with life := .configured, mode := m, minValue := lo, maxValue := hi, ds := startState m,
               live := live, localRec := loc, changed := false, held := held,
               result := result } := by
  obtain ⟨-, rfl⟩ := exec_configure_next h
  rw [deactivate_frame]
  exact ⟨_, _, _, _, rfl⟩

theorem exec_begin_frame {ok : Bool} {p : Sample} {s t : State}
    (h : exec (.beginOp ok p) s = .next t) : ∃ life ds result, t =
      { s with life := life, ds := ds, result := result } := by
  obtain ⟨-, ⟨rfl, -⟩ | ⟨-, -, -, rfl⟩⟩ := exec_begin_next h <;> exact ⟨_, _, _, rfl⟩

theorem exec_end_frame {s t : State} (h : exec .endOp s = .next t) : ∃ life held result, t =
    { s with life := life, held := held, result := result } := by
  obtain ⟨-, rfl⟩ := exec_end_next h
  rw [deactivate_frame]
  exact ⟨_, _, _, rfl⟩

theorem exec_readState_frame {s t : State} (h : exec .readState s = .next t) :
    ∃ loc changed result, t =
      { s with localRec := loc, changed := changed, ien := true, result := result } := by
  obtain ⟨-, -, rfl⟩ := exec_readState_next h
  rw [criticalSection_read]
  cases s.changed <;> exact ⟨_, _, _, rfl⟩

theorem exec_setValueAndReadBoth_frame {v : Int} {s t : State}
    (h : exec (.setValueAndReadBoth v) s = .next t) : ∃ live loc changed result, t =
      { s with live := live, localRec := loc, changed := changed, ien := true,
               result := result } := by
  obtain ⟨-, -, rfl⟩ := exec_setValueAndReadBoth_next h
  exact ⟨_, _, _, _, criticalSection_setValue v s⟩

theorem exec_reconfigureBounds_frame {lo hi v : Int} {s t : State}
    (h : exec (.reconfigureBounds lo hi v) s = .next t) :
    ∃ minValue maxValue live loc changed result, t =
      { s with minValue := minValue, maxValue := maxValue, live := live, localRec := loc,
               changed := changed, ien := true, result := result } := by
  obtain ⟨-, -, rfl⟩ := exec_reconfigureBounds_next h
  by_cases hlt : lo < hi
  · exact ⟨_, _, _, _, _, _, criticalSection_reconfigure hlt v s⟩
  · exact ⟨_, _, _, _, _, _, criticalSection_reconfigure_fails hlt v s⟩

theorem exec_attachCallback_frame {f : Option Token} {ctx : Token} {s t : State}
    (h : exec (.attachCallback f ctx) s = .next t) :
    ∃ cb result, t = { s with cb := cb, ien := true, result := result } := by
  obtain ⟨-, rfl⟩ := exec_attachCallback_next h
  exact ⟨_, _, criticalSection_attach f ctx s⟩

/-- Settles O51: each clause names the operations that may write a register, and each frame has that
register only where the clause names the operation. -/
theorem onlyTheListedOperationsWrite : Obligations.OnlyTheListedOperationsWrite := by
  intro i s t h
  cases i with
  | onEdgeAFall | onEdgeARise | onEdgeBFall | onEdgeBRise =>
    obtain ⟨_, _, _, _, _, rfl⟩ := exec_edge_frame rfl h
    simp [Instr.event?]
  | configure lo hi v m =>
    obtain ⟨_, _, _, _, rfl⟩ := exec_configure_frame h
    simp
  | beginOp ok p =>
    obtain ⟨_, _, _, rfl⟩ := exec_begin_frame h
    simp
  | endOp =>
    obtain ⟨_, _, _, rfl⟩ := exec_end_frame h
    simp
  | readState =>
    obtain ⟨_, _, _, rfl⟩ := exec_readState_frame h
    simp [isAppOperation]
  | setValueAndReadBoth v =>
    obtain ⟨_, _, _, _, rfl⟩ := exec_setValueAndReadBoth_frame h
    simp [isAppOperation]
  | reconfigureBounds lo hi v =>
    obtain ⟨_, _, _, _, _, _, rfl⟩ := exec_reconfigureBounds_frame h
    simp [isAppOperation]
  | attachCallback f ctx =>
    obtain ⟨_, _, rfl⟩ := exec_attachCallback_frame h
    simp

/-- Settles O53: only `configure` writes the mode, and it does not leave the instance Active. -/
theorem modeIsFixedWhileActive : Obligations.ModeIsFixedWhileActive := by
  intro i s t h hactive
  obtain ⟨hmode, -⟩ := onlyTheListedOperationsWrite i s t h
  refine (hmode ?_).1
  rintro lo hi v m rfl
  simp [exec_configure_life h] at hactive

/-! ### The lifecycle (rule R21) -/

theorem exec_end_changes_life {s t : State} (h : exec .endOp s = .next t)
    (hne : t.life ≠ s.life) : s.life = .active ∧ t.life = .configured := by
  obtain ⟨-, rfl⟩ := exec_end_next h
  rw [returning_life, deactivate_eq] at hne ⊢
  split_ifs at hne ⊢ with hactive
  · exact ⟨hactive, rfl⟩
  · exact absurd rfl hne

theorem exec_begin_changes_life {ok : Bool} {p : Sample} {s t : State}
    (h : exec (.beginOp ok p) s = .next t) (hne : t.life ≠ s.life) :
    ok = true ∧ s.life = .configured ∧ t.life = .active ∧ s.minValue < s.maxValue ∧
      t.result = .ok true := by
  obtain ⟨-, ⟨rfl, -⟩ | ⟨hok, hlife, hlt, rfl⟩⟩ := exec_begin_next h
  · exact absurd rfl hne
  · exact ⟨hok, hlife, rfl, hlt, rfl⟩

/-- An edge finds the instance Active and leaves it so (rule R161). -/
theorem exec_edge_active {i : Instr} {e : EdgeEvent} {s t : State} (he : i.event? = some e)
    (h : exec i s = .next t) : s.life = .active ∧ t.life = .active := by
  have hactive := active_of_exec_edge he h
  obtain ⟨_, _, _, _, _, rfl⟩ := exec_edge_frame he h
  exact ⟨hactive, hactive⟩

/-- Settles O52: the three operations that can write `life`, each with what it asks. -/
theorem lifecycleTransitions : Obligations.LifecycleTransitions := by
  intro i s t h
  refine ⟨fun hne => ?changes, fun he => ?edge⟩
  case edge =>
    obtain ⟨e, he⟩ := Option.ne_none_iff_exists'.mp he
    exact exec_edge_active he h
  case changes =>
    cases i with
    | onEdgeAFall | onEdgeARise | onEdgeBFall | onEdgeBRise =>
      obtain ⟨hs, ht⟩ := exec_edge_active rfl h
      exact absurd (ht.trans hs.symm) hne
    | configure lo hi v m => exact .inl ⟨⟨lo, hi, v, m, rfl⟩, exec_configure_life h⟩
    | beginOp ok p =>
      obtain ⟨rfl, hbegin⟩ := exec_begin_changes_life h hne
      exact .inr (.inl ⟨⟨p, rfl⟩, hbegin⟩)
    | endOp => exact .inr (.inr ⟨rfl, exec_end_changes_life h hne⟩)
    | readState => exact absurd (exec_readState_life h) hne
    | setValueAndReadBoth v => exact absurd (exec_setValueAndReadBoth_life h) hne
    | reconfigureBounds lo hi v => exact absurd (exec_reconfigureBounds_life h) hne
    | attachCallback f ctx => exact absurd (exec_attachCallback_life h) hne

/-! ### The callback (rules R174, R255) -/

/-- What an enabled edge appends to the calls and leaves in the flags, by its delta. -/
theorem edgeStep_calls (s : State) (e : EdgeEvent) :
    (deltaAt s e = some .none ∧ (edgeStep s e).calls = s.calls) ∨
    (deltaAt s e ≠ some .none ∧ (edgeStep s e).changed = true ∧
      (edgeStep s e).live.click ≠ .noClick ∧
      (edgeStep s e).calls = s.calls ++ s.cb.toList.map fun g =>
        ⟨g.callback, Config.controllerHandle, (edgeStep s e).live, g.userContext⟩) := by
  obtain ⟨n, hq | hq | hq⟩ := qsm_cases s.mode s.ds e.code
  · exact .inl ⟨by rw [deltaAt, hq], by rw [edgeStep_of_none hq, setDs_calls]⟩
  · rw [edgeStep_of_increment hq, deltaAt, hq]
    exact .inr ⟨by simp, rfl, by simp, rfl⟩
  · rw [edgeStep_of_decrement hq, deltaAt, hq]
    exact .inr ⟨by simp, rfl, by simp, rfl⟩

theorem exec_edge_reports {i : Instr} {e : EdgeEvent} {g : Registration} {s t : State}
    (he : i.event? = some e) (hien : s.ien = true) (hdelta : deltaAt s e ≠ some .none)
    (hcb : s.cb = some g) (h : exec i s = .next t) :
    t.calls = s.calls ++ [⟨g.callback, Config.controllerHandle, t.live, g.userContext⟩] ∧
      t.changed = true ∧ t.live.click ≠ .noClick ∧ restState t.mode t.ds = true := by
  obtain ⟨-, rfl⟩ := exec_edge_of_unmasked he hien h
  obtain ⟨hnone, -⟩ | ⟨-, hchanged, hclick, hcalls⟩ := edgeStep_calls s e
  · exact absurd hnone hdelta
  · refine ⟨by simpa [hcb] using hcalls, hchanged, hclick, ?_⟩
    rw [edgeStep_mode, edgeStep_ds]
    exact qsm_rest_of_delta hdelta

theorem exec_edge_silent {i : Instr} {e : EdgeEvent} {s t : State} (he : i.event? = some e)
    (hsilent : s.ien = false ∨ s.cb = none ∨ deltaAt s e = some .none)
    (h : exec i s = .next t) : t.calls = s.calls := by
  obtain ⟨-, -, ⟨hien, -⟩ | ⟨-, rfl⟩⟩ := exec_edge_next he h
  · obtain ⟨-, rfl⟩ := exec_edge_of_unmasked he hien h
    obtain ⟨-, hcalls⟩ | ⟨hdelta, -, -, hcalls⟩ := edgeStep_calls s e
    · exact hcalls
    · obtain hmasked | hcb | hnone := hsilent
      · simp [hien] at hmasked
      · simpa [hcb] using hcalls
      · exact absurd hnone hdelta
  · rfl

/-- Settles O27: an edge reports its delta or is silent, and no other operation writes `calls`. -/
theorem callbackReportsEachDeltaOnce : Obligations.CallbackReportsEachDeltaOnce := by
  intro i s t h
  refine ⟨fun e g he hien hdelta hcb => exec_edge_reports he hien hdelta hcb h, fun hsilent => ?_⟩
  cases he : i.event? with
  | none =>
    obtain ⟨-, -, hcalls, -⟩ := onlyTheListedOperationsWrite i s t h
    exact hcalls he
  | some e =>
    simp only [he, reduceCtorEq, false_or, Option.some.injEq, exists_eq_left'] at hsilent
    exact exec_edge_silent he hsilent h

/-! ### Clicks (rules R183, R187) -/

/-- An application operation that does not fail leaves no change pending. -/
theorem exec_app_clears_changed {i : Instr} {s t : State} (happ : isAppOperation i = true)
    (h : exec i s = .next t) (hresult : t.result ≠ .reboundFailed) : t.changed = false := by
  cases i <;> simp only [isAppOperation, Bool.false_eq_true] at happ
  case readState => exact exec_readState_changed h
  case setValueAndReadBoth v => exact exec_setValueAndReadBoth_changed h
  case reconfigureBounds lo hi v =>
    by_cases hlt : lo < hi
    · exact exec_reconfigureBounds_changed hlt h
    · obtain ⟨-, -, rfl⟩ := exec_reconfigureBounds_next h
      exact absurd (congrArg State.result (criticalSection_reconfigure_fails hlt v s)) hresult

/-- Only an edge sets `changed` (rule R27). -/
theorem exec_host_keeps_unchanged {i : Instr} {s t : State} (he : i.event? = none)
    (h : exec i s = .next t) (hs : s.changed = false) : t.changed = false := by
  cases i <;> simp only [Instr.event?, reduceCtorEq] at he
  case configure lo hi v m => exact exec_configure_changed h
  case beginOp ok p => exact (exec_begin_changed h).trans hs
  case endOp => exact (exec_end_changed h).trans hs
  case readState => exact exec_readState_changed h
  case setValueAndReadBoth v => exact exec_setValueAndReadBoth_changed h
  case reconfigureBounds lo hi v =>
    obtain hlt | hle := lt_or_ge lo hi
    · exact exec_reconfigureBounds_changed hlt h
    · exact (exec_reconfigureBounds_fails_changed hle h).trans hs
  case attachCallback f ctx => exact (exec_attachCallback_changed h).trans hs

theorem runProgram_host_keeps_unchanged {prog : List Instr} {s t : State}
    (hedges : edgesOf prog = []) (h : runProgram prog s = .next t) (hs : s.changed = false) :
    t.changed = false := by
  induction prog generalizing s with
  | nil => cases h; exact hs
  | cons i prog ih =>
    obtain ⟨u, hexec, hrest⟩ := runProgram_cons_next h
    simp only [edgesOf, List.filterMap_eq_nil_iff, List.forall_mem_cons] at hedges ih
    obtain ⟨he, hprog⟩ := hedges
    exact ih hprog hrest (exec_host_keeps_unchanged he hexec hs)

/-- With no change pending an application operation reports the local record without a click, or
fails and reports none. -/
theorem exec_app_reports_noClick {i : Instr} {s t : State} (happ : isAppOperation i = true)
    (h : exec i s = .next t) (hs : s.changed = false) : reportedClick t.result = .noClick := by
  have hsnapshot : snapshot s = ⟨s.localRec.pos, .noClick⟩ := by simp [snapshot, hs]
  cases i <;> simp only [isAppOperation, Bool.false_eq_true] at happ
  case readState =>
    obtain ⟨-, -, rfl⟩ := exec_readState_next h
    simp [criticalSection_read, hs, reportedClick]
  case setValueAndReadBoth v =>
    obtain ⟨-, -, rfl⟩ := exec_setValueAndReadBoth_next h
    simp [criticalSection_setValue, hsnapshot, reportedClick]
  case reconfigureBounds lo hi v =>
    obtain ⟨-, -, rfl⟩ := exec_reconfigureBounds_next h
    by_cases hlt : lo < hi
    · simp [criticalSection_reconfigure hlt, hsnapshot, reportedClick]
    · simp [criticalSection_reconfigure_fails hlt, reportedClick]

/-- Settles O38: the first operation clears `changed`, nothing but an edge sets it again, and while
it is clear no click is reported. -/
theorem aClickIsReportedOnce : Obligations.AClickIsReportedOnce := by
  intro a b prog s t u v ha hexec hresult hedges hrun hb hexec'
  have hcleared := exec_app_clears_changed ha hexec hresult
  have hkept := runProgram_host_keeps_unchanged hedges hrun hcleared
  exact exec_app_reports_noClick hb hexec' hkept

/-! ### What reset leaves open is not read (rule R38) -/

theorem agreeUnconfigured_returning {s t : State} (h : AgreeUnconfigured s t) (r : Result) :
    AgreeUnconfigured (s.returning r) (t.returning r) := by
  obtain ⟨hs, ht, hien, hcb, hd, hheld, hinbox, -, hcalls⟩ := h
  exact ⟨hs, ht, hien, hcb, hd, hheld, hinbox, rfl, hcalls⟩

theorem sameAnswer_refl (a : Answer) : SameAnswer a a := by
  cases a with
  | next s => exact .inl rfl
  | fault r => exact nomatch r
  | refused r => exact rfl

theorem eq_or_agree_of_sameAnswer {a b : Answer} (h : SameAnswer a b) :
    a = b ∨ ∃ s t, a = .next s ∧ b = .next t ∧ AgreeUnconfigured s t := by
  unfold SameAnswer at h
  split at h
  · obtain rfl | hagree := h
    · exact .inl rfl
    · exact .inr ⟨_, _, rfl, rfl, hagree⟩
  · exact .inl (congrArg _ h)
  · exact h.elim
  · exact h.elim

/-- `configure` overwrites everything on which the two states may differ (rules R39, R211). -/
theorem exec_configure_agree {s t : State} (h : AgreeUnconfigured s t)
    (hpresent : s.destroyed = false) (lo hi v : Int) (m : Mode) :
    exec (.configure lo hi v m) s = exec (.configure lo hi v m) t := by
  obtain ⟨hs, ht, hien, hcb, hd, hheld, hinbox, -, hcalls⟩ := h
  rw [configureResult lo hi v m s hpresent, configureResult lo hi v m t (hd ▸ hpresent)]
  simp [hs, ht, hien, hcb, hd, hheld, hinbox, hcalls]

/-- One operation from two states that agree so: the same answer. -/
theorem exec_agree {s t : State} (h : AgreeUnconfigured s t) (i : Instr) :
    SameAnswer (exec i s) (exec i t) := by
  obtain ⟨hs, ht, hien, hcb, hd, hheld, hinbox, hresult, hcalls⟩ := id h
  cases hdestroyed : s.destroyed with
  | true =>
    rw [exec_of_destroyed hdestroyed, exec_of_destroyed (hd ▸ hdestroyed)]
    rfl
  | false =>
  have hdestroyed' : t.destroyed = false := hd ▸ hdestroyed
  cases he : i.event? with
  | some e =>
    rw [instr_of_event? he, exec_instr_of_inactive hdestroyed (by simp [hs]),
      exec_instr_of_inactive hdestroyed' (by simp [ht])]
    rfl
  | none =>
    cases i <;> simp only [Instr.event?, reduceCtorEq] at he
    case configure lo hi v m =>
      rw [exec_configure_agree h hdestroyed]
      exact sameAnswer_refl _
    case beginOp ok p =>
      rw [exec_begin_of_unconfigured hdestroyed hs, exec_begin_of_unconfigured hdestroyed' ht]
      exact .inr (agreeUnconfigured_returning h _)
    case endOp =>
      rw [exec_end_of_inactive hdestroyed (by simp [hs]),
        exec_end_of_inactive hdestroyed' (by simp [ht])]
      exact .inr (agreeUnconfigured_returning h _)
    case readState | setValueAndReadBoth | reconfigureBounds =>
      rw [appOperationsRefusedWhenUnconfigured _ s rfl hdestroyed hs,
        appOperationsRefusedWhenUnconfigured _ t rfl hdestroyed' ht]
      rfl
    case attachCallback f ctx =>
      rw [exec_attachCallback_of_present hdestroyed, exec_attachCallback_of_present hdestroyed',
        criticalSection_attach, criticalSection_attach]
      exact .inr ⟨hs, ht, rfl, rfl, hd, hheld, hinbox, rfl, hcalls⟩

/-- Settles O56: by induction on the program; where two operations leave different states they agree
again, and where they leave the same state the rest of the program runs as one. -/
theorem unspecifiedRegistersAreNotRead : Obligations.UnspecifiedRegistersAreNotRead := by
  intro prog
  induction prog with
  | nil => exact fun s t h => .inr h
  | cons i prog ih =>
    intro s t h
    obtain heq | ⟨u, v, hs, ht, hagree⟩ := eq_or_agree_of_sameAnswer (exec_agree h i)
    · simp only [runProgram, heq]
      exact sameAnswer_refl _
    · rw [runProgram_cons hs, runProgram_cons ht]
      exact ih u v hagree

end Sys2Proof.Proofs.AccessMatrix
end
